-- ==== Sys2Proof/Word.lean ====
section
/-! DEFINITION. The word types of the block: bytes, sample items, command and status words. -/

namespace Sys2Proof

/-- One byte of sample memory or of a control-bus frame. -/
abbrev Byte := BitVec 8

/-- One DMA item: one 16-bit sample, never interpreted (R6, R7, R65). -/
abbrev Item := BitVec 16

/-- A command word `cmd`, a response word `rsp_data` or a counter (R20, R80, R43). -/
abbrev Word32 := BitVec 32

/-- A half of a double buffer, 0 or 1 (R22, R67). -/
abbrev Half := Fin 2

end Sys2Proof
end

