-- ==== Sys2Proof/Syntax.lean ====
section
/-! DEFINITION. The host operations (the block's instructions), the steps of the other agents, and the
textual form of both (R81, R92, R97, R98). -/

namespace Sys2Proof

/-- The eight host operations of the opcode table, operands as the fields of R81 (R89: unsigned, unscaled). -/
inductive Instr where
  /-- SETUP `rate[23:0]` (R130). -/
  | setup (rate : BitVec 24)
  /-- START (R134). -/
  | start
  /-- DISABLE (R137). -/
  | disable
  /-- WRITE_REGISTER `dev[6:0], reg[7:0], val[7:0]` (R118). -/
  | writeRegister (dev : BitVec 7) (reg : BitVec 8) (val : BitVec 8)
  /-- READ_REGISTER `dev[6:0], reg[7:0]` (R119). -/
  | readRegister (dev : BitVec 7) (reg : BitVec 8)
  /-- GET_PROPERTY `sel[1:0]` (R201). -/
  | getProperty (sel : BitVec 2)
  /-- GET_STATUS `sel[3:0]` (R203). -/
  | getStatus (sel : BitVec 4)
  /-- CLEAR_UNDERRUN (R205). -/
  | clearUnderrun
deriving DecidableEq, Repr

/-- The two DMA channels (R140). -/
inductive Channel where
  | rx
  | tx
deriving DecidableEq, Repr, Inhabited

/-- The two low-level DMA errors (R150). -/
inductive DmaErrorKind where
  /-- Transfer error. -/
  | te
  /-- Direct-mode error. -/
  | dme
deriving DecidableEq, Repr, Inhabited

/-- One step of one agent (R14), named as R97 names it; the values an agent draws are its operands (R12). -/
inductive Move where
  /-- FG presents `cmd` and the block accepts it (R80). -/
  | command (w : Word32)
  /-- FG continues its multi-step operation: `fg poll` or an internal step `fg:`. -/
  | fg
  /-- DISP's entry step (R165). -/
  | dispEntry
  /-- DISP continues the recovery sequence: `disp poll` or an internal step `disp:`. -/
  | disp
  /-- DISP's exit step: the callback returns (R172). -/
  | dispExit
  /-- The callback reads item `i` of its receive block (R168). -/
  | cbRead (i : Nat)
  /-- The callback writes `w` to item `i` of its transmit block (R169). -/
  | cbWrite (i : Nat) (w : Item)
  /-- The transmit-channel handler (R177). -/
  | txh
  /-- The frame-error handler (R181). -/
  | feh
  /-- DMA_RX moves one item, the drawn word `w` (R141). -/
  | dmaRx (w : Item)
  /-- DMA_TX moves one item (R143). -/
  | dmaTx
  /-- ENV: the PLL locks (R104). -/
  | pllLock
  /-- ENV: the control-bus phase in progress completes; `b` is the byte drawn if it is a reception (R116). -/
  | cbAck (b : Byte)
  /-- ENV: the word-select line changes level (R148). -/
  | wsToggle
  /-- ENV: the frame-synchronization-error status bit is set (R149). -/
  | frameError
  /-- ENV: a DMA error (R150). -/
  | dmaError (ch : Channel) (kind : DmaErrorKind)
deriving DecidableEq, Repr, Inhabited

/-- The selectors of GET_PROPERTY (R202). -/
inductive PropertyName where
  | rate
  | blockLength
  | inChannels
  | outChannels
deriving DecidableEq, Repr

/-- The selectors of GET_STATUS, in their order (R204). -/
inductive StatusName where
  | runState
  | recState
  | faultFlags
  | underrunCount
  | teCount
  | dmeCount
  | recoveryCount
  | callbackCount
  | lastError
  | rxNdtr
  | txNdtr
  | readyHalf
  | enables
  | rxFlags
  | txFlags
  | recoveryFailCount
deriving DecidableEq, Repr

/-- The mnemonics of the textual form, the two pseudo-operations among them (R97, R98). -/
inductive TextMnemonic where
  | setup
  | start
  | disable
  | writeRegister
  | readRegister
  | getProperty
  | getStatus
  | clearUnderrun
  | audioHwSetup
  | restart
deriving DecidableEq, Repr

/-- One operand of a command's text: a number, or a selector's name (R97). -/
inductive TextOperand where
  | num (n : Nat)
  | property (s : PropertyName)
  | status (s : StatusName)
deriving DecidableEq, Repr

/-- A command as text, cut into its mnemonic and its operands in the source's order (R97; entry 22). -/
structure TextCommand where
  mnemonic : TextMnemonic
  operands : List TextOperand
deriving DecidableEq, Repr

/-- How a mnemonic is written (R97, R98). -/
def TextMnemonic.spelling : TextMnemonic → String
  | .setup => "setup"
  | .start => "start"
  | .disable => "disable"
  | .writeRegister => "write_register"
  | .readRegister => "read_register"
  | .getProperty => "get_property"
  | .getStatus => "get_status"
  | .clearUnderrun => "clear_underrun"
  | .audioHwSetup => "audio_hw_setup"
  | .restart => "restart"

/-- How a property's name is written (R97, R202). -/
def PropertyName.spelling : PropertyName → String
  | .rate => "rate"
  | .blockLength => "block_length"
  | .inChannels => "in_channels"
  | .outChannels => "out_channels"

/-- How a status selector's name is written (R204). -/
def StatusName.spelling : StatusName → String
  | .runState => "run_state"
  | .recState => "rec_state"
  | .faultFlags => "fault_flags"
  | .underrunCount => "underrun_count"
  | .teCount => "te_count"
  | .dmeCount => "dme_count"
  | .recoveryCount => "recovery_count"
  | .callbackCount => "callback_count"
  | .lastError => "last_error"
  | .rxNdtr => "rx_ndtr"
  | .txNdtr => "tx_ndtr"
  | .readyHalf => "ready_half"
  | .enables => "enables"
  | .rxFlags => "rx_flags"
  | .txFlags => "tx_flags"
  | .recoveryFailCount => "recovery_fail_count"

end Sys2Proof
end

