-- ==== Sys2Proof/Config.lean ====
section
/-! DEFINITION. What an implementation fixes (R7 to R10): the quantities the spec decides, the open parameters
of R8, and the uninterpreted constants behind every value the spec leaves open. -/

namespace Sys2Proof

/-- The three supported sample rates, `RATES` (R7). -/
inductive Rate where
  | hz16000
  | hz32000
  | hz44100
deriving DecidableEq, Repr

/-- What `CLOCK_TABLE` gives for one rate (R30, R102); the widths are not in the spec. DESIGN CHOICE, entry 6. -/
structure ClockParams where
  pllMult : Nat
  pllDiv : Nat
  busDiv : Nat
  busOdd : Bool
deriving DecidableEq, Repr, Inhabited

/-- One entry of a codec's framing function `F`: the byte sent for `(index, value)` (R9, R85). -/
structure FramingEntry where
  index : Byte
  value : Byte
  byte : Byte
deriving DecidableEq, Repr, Inhabited

/-- The parameters left open (R8), with the platform's burst settings (R132). `CLOCK_TABLE` is its three values and
`F` its table, so that the whole is plain data (entries 4, 5, 16). -/
structure Params where
  blockFrames : Nat
  rxBase : Nat
  txBase : Nat
  spinLimit : Nat
  pllSpinLimit : Nat
  clock16000 : ClockParams
  clock32000 : ClockParams
  clock44100 : ClockParams
  codecAddr : BitVec 7
  framing : List FramingEntry
  cstartSeq : List (Byte × Byte)
  cfeSeq : List (Byte × Byte)
  rxBurst : Nat
  txBurst : Nat
deriving DecidableEq, Repr, Inhabited

namespace Config

/-- `CH_IN` (R10). -/
abbrev chIn : Nat := 2
/-- `CH_OUT` (R10). -/
abbrev chOut : Nat := 2
/-- `ITEM_BYTES` (R10). -/
abbrev itemBytes : Nat := 2
/-- `SAMPLE_BITS` (R7). -/
abbrev sampleBits : Nat := 16

end Config

namespace Params

/-- `BLOCK_ITEMS_RX` (R10). -/
abbrev blockItemsRx (p : Params) : Nat := p.blockFrames * Config.chIn
/-- `BLOCK_ITEMS_TX` (R10). -/
abbrev blockItemsTx (p : Params) : Nat := p.blockFrames * Config.chOut
/-- `N_RX` (R10). -/
abbrev nRx (p : Params) : Nat := 2 * p.blockItemsRx
/-- `N_TX` (R10). -/
abbrev nTx (p : Params) : Nat := 2 * p.blockItemsTx
/-- `DBUF_BYTES_RX` (R10). -/
abbrev dbufBytesRx (p : Params) : Nat := p.nRx * Config.itemBytes
/-- The transmit double buffer's length in bytes. -/
abbrev dbufBytesTx (p : Params) : Nat := p.nTx * Config.itemBytes

/-- The constraints of R8 (and R61): block length at least 1, both counts within 16 bits, even bases, buffers that do
not overlap, poll bounds at least 1. -/
abbrev Valid (p : Params) : Prop :=
  1 ≤ p.blockFrames ∧ p.nRx ≤ 65535 ∧ p.nTx ≤ 65535 ∧ p.rxBase % 2 = 0 ∧ p.txBase % 2 = 0
    ∧ (p.rxBase + p.dbufBytesRx ≤ p.txBase ∨ p.txBase + p.dbufBytesTx ≤ p.rxBase)
    ∧ 1 ≤ p.spinLimit ∧ 1 ≤ p.pllSpinLimit

/-- Some valid parameters: where `Config.rawParams` is not valid, they stand in its place, so that
`Config.params` is every valid choice of parameters and no other. -/
def smallest : Params where
  blockFrames := 1
  rxBase := 0
  txBase := 8
  spinLimit := 1
  pllSpinLimit := 1
  clock16000 := default
  clock32000 := default
  clock44100 := default
  codecAddr := 0
  framing := []
  cstartSeq := []
  cfeSeq := []
  rxBurst := 0
  txBurst := 0

end Params

/-- The direction of a DMA channel (R31, R33). -/
inductive Direction where
  /-- Peripheral to memory: the receive channel. -/
  | p2m
  /-- Memory to peripheral: the transmit channel. -/
  | m2p
deriving DecidableEq, Repr, Inhabited

/-- The configuration fields of one DMA channel other than its enables (R31, R33). -/
structure ChannelConfig where
  circ : Bool
  dir : Direction
  itemBits : Nat
  minc : Bool
  pinc : Bool
  count : BitVec 16
  burst : Nat
deriving DecidableEq, Repr, Inhabited

namespace Config

/-- Any parameters at all: nothing in Lean can evaluate them. DESIGN CHOICE, entry 4. -/
opaque rawParams : Params

/-- The parameters the machine is reset with: valid (R8), and otherwise unknown. DESIGN CHOICE, entry 4. -/
def params : Params := if rawParams.Valid then rawParams else Params.smallest

/-- Which agent moves at the `n`-th step that `inputs` does not decide, with its draws (R14, R58): any schedule.
DESIGN CHOICE, entry 1. -/
opaque schedule : Nat → Move

/-- `cmd` at reset: no value in the spec (R242). DESIGN CHOICE, entry 7. -/
opaque resetCmd : Word32
/-- `cfg_rate` at reset: no value in the spec (R242). DESIGN CHOICE, entry 7. -/
opaque resetCfgRate : BitVec 24
/-- `cfg_clk` at reset: no value in the spec (R242). DESIGN CHOICE, entry 7. -/
opaque resetCfgClk : ClockParams
/-- `RX_CFG` other than its enables at reset: no value in the spec (R242). DESIGN CHOICE, entry 7. -/
opaque resetRxCfg : ChannelConfig
/-- `TX_CFG` other than its enables at reset: no value in the spec (R242). DESIGN CHOICE, entry 7. -/
opaque resetTxCfg : ChannelConfig
/-- `cb_rx_byte` at reset: no value in the spec (R242). DESIGN CHOICE, entry 7. -/
opaque resetCbRxByte : Byte
/-- `ws_line` at reset: drawn (R37, R242). DESIGN CHOICE, entry 7. -/
opaque resetWsLine : Bool

end Config

end Sys2Proof
end

