-- ==== Sys2Proof/WellFormed.lean ====
section
/-! DEFINITION. The checks on command words (R92 to R94) and on commands in textual form (R97). An `Instr` itself has
nothing left to check: each operand has exactly the width of its field (R81). -/

namespace Sys2Proof

/-- One row of the opcode map (R92). -/
structure OpcodeRow where
  pattern : Word32
  mask : Word32
deriving DecidableEq, Repr

/-- "a word `w` selects the operation when `w and mask = match`" (R92). -/
def OpcodeRow.selects (r : OpcodeRow) (w : Word32) : Bool := w &&& r.mask == r.pattern

namespace OpcodeRow

/-- SETUP (R92). -/
def setup : OpcodeRow := ⟨0x10000000, 0xFF000000⟩
/-- START (R92). -/
def start : OpcodeRow := ⟨0x20000000, 0xFFFFFFFF⟩
/-- DISABLE (R92). -/
def disable : OpcodeRow := ⟨0x30000000, 0xFFFFFFFF⟩
/-- WRITE_REGISTER (R92). -/
def writeRegister : OpcodeRow := ⟨0x40000000, 0xFF800000⟩
/-- READ_REGISTER (R92). -/
def readRegister : OpcodeRow := ⟨0x50000000, 0xFF8000FF⟩
/-- GET_PROPERTY (R92). -/
def getProperty : OpcodeRow := ⟨0x60000000, 0xFFFFFFFC⟩
/-- GET_STATUS (R92). -/
def getStatus : OpcodeRow := ⟨0x70000000, 0xFFFFFFF0⟩
/-- CLEAR_UNDERRUN (R92). -/
def clearUnderrun : OpcodeRow := ⟨0x80000000, 0xFFFFFFFF⟩

/-- The opcode map (R92). -/
def table : List OpcodeRow :=
  [setup, start, disable, writeRegister, readRegister, getProperty, getStatus, clearUnderrun]

end OpcodeRow

/-- The row of an instruction (R92). -/
def Instr.row : Instr → OpcodeRow
  | .setup _ => .setup
  | .start => .start
  | .disable => .disable
  | .writeRegister _ _ _ => .writeRegister
  | .readRegister _ _ => .readRegister
  | .getProperty _ => .getProperty
  | .getStatus _ => .getStatus
  | .clearUnderrun => .clearUnderrun

/-- The opcode field is one of the eight defined ones, 0x1 to 0x8 (R92, R93). -/
def opcodeDefined (w : Word32) : Bool :=
  1 ≤ (w.extractLsb' 28 4).toNat && (w.extractLsb' 28 4).toNat ≤ 8

/-- A command word is well-formed when it selects a row; every other word is illegal (R92 to R94). -/
def wellFormedWord (w : Word32) : Bool := OpcodeRow.table.any (·.selects w)

/-- A command in textual form has its operands in number, kind and range (R97, R98). -/
def TextCommand.wellFormed (c : TextCommand) : Bool :=
  match c.mnemonic, c.operands with
  | .setup, [.num r] => decide (r < 2 ^ 24)
  | .audioHwSetup, [.num r] => decide (r < 2 ^ 24)
  | .restart, [.num r] => decide (r < 2 ^ 24)
  | .start, [] => true
  | .disable, [] => true
  | .clearUnderrun, [] => true
  | .writeRegister, [.num d, .num r, .num v] => decide (d < 2 ^ 7) && decide (r < 2 ^ 8) && decide (v < 2 ^ 8)
  | .readRegister, [.num d, .num r] => decide (d < 2 ^ 7) && decide (r < 2 ^ 8)
  | .getProperty, [.num s] => decide (s < 4)
  | .getProperty, [.property _] => true
  | .getStatus, [.num s] => decide (s < 16)
  | .getStatus, [.status _] => true
  | _, _ => false

end Sys2Proof
end

