-- ==== Sys2Proof/Decode.lean ====
section
/-! DEFINITION. The decoder of command words (R80, R81, R92 to R94), the encoder, and the assembler of the textual
form (R97, R98). -/

namespace Sys2Proof

/-- Why a command word is illegal; both give `IllegalCommand` (R93, R94). -/
inductive DecodeError where
  /-- The opcode is 0x0 or 0x9 to 0xF (R93). -/
  | reservedOpcode
  /-- The opcode is defined and a must-be-zero field holds a 1 (R94). -/
  | mustBeZero
deriving DecidableEq, Repr

/-- `rate = cmd[23:0]` (R81). -/
def rateField (w : Word32) : BitVec 24 := w.extractLsb' 0 24
/-- `dev = cmd[22:16]` (R81). -/
def devField (w : Word32) : BitVec 7 := w.extractLsb' 16 7
/-- `reg = cmd[15:8]` (R81). -/
def regField (w : Word32) : BitVec 8 := w.extractLsb' 8 8
/-- `val = cmd[7:0]` (R81). -/
def valField (w : Word32) : BitVec 8 := w.extractLsb' 0 8
/-- GET_PROPERTY's `sel = cmd[1:0]` (R81). -/
def propertyField (w : Word32) : BitVec 2 := w.extractLsb' 0 2
/-- GET_STATUS's `sel = cmd[3:0]` (R81). -/
def statusField (w : Word32) : BitVec 4 := w.extractLsb' 0 4

/-- The decoder: total, and every word that selects no row is rejected by name (R92 to R94). -/
def decode (w : Word32) : Except DecodeError Instr :=
  if OpcodeRow.setup.selects w then .ok (.setup (rateField w))
  else if OpcodeRow.start.selects w then .ok .start
  else if OpcodeRow.disable.selects w then .ok .disable
  else if OpcodeRow.writeRegister.selects w then .ok (.writeRegister (devField w) (regField w) (valField w))
  else if OpcodeRow.readRegister.selects w then .ok (.readRegister (devField w) (regField w))
  else if OpcodeRow.getProperty.selects w then .ok (.getProperty (propertyField w))
  else if OpcodeRow.getStatus.selects w then .ok (.getStatus (statusField w))
  else if OpcodeRow.clearUnderrun.selects w then .ok .clearUnderrun
  else if opcodeDefined w then .error .mustBeZero
  else .error .reservedOpcode

/-- The command word of an instruction, written from the fields of R81 and the words of R97. -/
def encode : Instr → Word32
  | .setup rate => 0x1#4 ++ 0#4 ++ rate
  | .start => 0x2#4 ++ 0#28
  | .disable => 0x3#4 ++ 0#28
  | .writeRegister dev reg val => 0x4#4 ++ 0#5 ++ dev ++ reg ++ val
  | .readRegister dev reg => 0x5#4 ++ 0#5 ++ dev ++ reg ++ 0#8
  | .getProperty sel => 0x6#4 ++ 0#26 ++ sel
  | .getStatus sel => 0x7#4 ++ 0#24 ++ sel
  | .clearUnderrun => 0x8#4 ++ 0#28

/-- The instruction the decoder reads from the table's numbering of a word's bits. -/
def decodeTableWord (nbits w : Nat) : Option Instr :=
  match decode (BitVec.ofNat 32 (w % 2 ^ nbits)) with
  | .ok i => some i
  | .error _ => none

/-- The selector of a property (R202). -/
def PropertyName.selector : PropertyName → BitVec 2
  | .rate => 0
  | .blockLength => 1
  | .inChannels => 2
  | .outChannels => 3

/-- The property a selector names; all four are defined (R50, R202). -/
def PropertyName.ofSelector (sel : BitVec 2) : PropertyName :=
  match sel.toNat with
  | 0 => .rate
  | 1 => .blockLength
  | 2 => .inChannels
  | _ => .outChannels

/-- The selector of a status word (R204). -/
def StatusName.selector : StatusName → BitVec 4
  | .runState => 0
  | .recState => 1
  | .faultFlags => 2
  | .underrunCount => 3
  | .teCount => 4
  | .dmeCount => 5
  | .recoveryCount => 6
  | .callbackCount => 7
  | .lastError => 8
  | .rxNdtr => 9
  | .txNdtr => 10
  | .readyHalf => 11
  | .enables => 12
  | .rxFlags => 13
  | .txFlags => 14
  | .recoveryFailCount => 15

/-- The status word a selector names; all sixteen are defined (R50, R204). -/
def StatusName.ofSelector (sel : BitVec 4) : StatusName :=
  match sel.toNat with
  | 0 => .runState
  | 1 => .recState
  | 2 => .faultFlags
  | 3 => .underrunCount
  | 4 => .teCount
  | 5 => .dmeCount
  | 6 => .recoveryCount
  | 7 => .callbackCount
  | 8 => .lastError
  | 9 => .rxNdtr
  | 10 => .txNdtr
  | 11 => .readyHalf
  | 12 => .enables
  | 13 => .rxFlags
  | 14 => .txFlags
  | _ => .recoveryFailCount

/-- The instructions a command in textual form stands for, one after another; `restart` is three of them, each issued
after the one before it completed with `rsp_err = 0` (R97, R98). -/
def TextCommand.assemble (c : TextCommand) : Option (List Instr) :=
  if c.wellFormed then
    match c.mnemonic, c.operands with
    | .setup, [.num r] => some [.setup (BitVec.ofNat 24 r)]
    | .audioHwSetup, [.num r] => some [.setup (BitVec.ofNat 24 r)]
    | .restart, [.num r] => some [.disable, .setup (BitVec.ofNat 24 r), .start]
    | .start, [] => some [.start]
    | .disable, [] => some [.disable]
    | .clearUnderrun, [] => some [.clearUnderrun]
    | .writeRegister, [.num d, .num r, .num v] =>
      some [.writeRegister (BitVec.ofNat 7 d) (BitVec.ofNat 8 r) (BitVec.ofNat 8 v)]
    | .readRegister, [.num d, .num r] => some [.readRegister (BitVec.ofNat 7 d) (BitVec.ofNat 8 r)]
    | .getProperty, [.num s] => some [.getProperty (BitVec.ofNat 2 s)]
    | .getProperty, [.property s] => some [.getProperty s.selector]
    | .getStatus, [.num s] => some [.getStatus (BitVec.ofNat 4 s)]
    | .getStatus, [.status s] => some [.getStatus s.selector]
    | _, _ => none
  else none

/-- The textual form of an instruction (R97). -/
def Instr.text : Instr → TextCommand
  | .setup rate => ⟨.setup, [.num rate.toNat]⟩
  | .start => ⟨.start, []⟩
  | .disable => ⟨.disable, []⟩
  | .writeRegister dev reg val => ⟨.writeRegister, [.num dev.toNat, .num reg.toNat, .num val.toNat]⟩
  | .readRegister dev reg => ⟨.readRegister, [.num dev.toNat, .num reg.toNat]⟩
  | .getProperty sel => ⟨.getProperty, [.property (PropertyName.ofSelector sel)]⟩
  | .getStatus sel => ⟨.getStatus, [.status (StatusName.ofSelector sel)]⟩
  | .clearUnderrun => ⟨.clearUnderrun, []⟩

/-- How an operand is written; numbers in decimal (R97). -/
def TextOperand.spelling : TextOperand → String
  | .num n => toString n
  | .property s => s.spelling
  | .status s => s.spelling

/-- How a command is written: its mnemonic, then its operands, separated by commas (R97). -/
def TextCommand.spelling (c : TextCommand) : String :=
  match c.operands with
  | [] => c.mnemonic.spelling
  | o :: rest => c.mnemonic.spelling ++ " " ++ ", ".intercalate ((o :: rest).map TextOperand.spelling)

/-- The line a test program writes for a move (R97): an accepted word's command, or the agent's step. An illegal word has
no text, and the internal steps of a procedure are written as its poll steps are. -/
def Move.line : Move → Option String
  | .command w => match decode w with
    | .ok i => some i.text.spelling
    | .error _ => none
  | .fg => some "fg poll"
  | .dispEntry => some "disp entry"
  | .disp => some "disp poll"
  | .dispExit => some "disp exit"
  | .cbRead i => some ("cb read " ++ toString i)
  | .cbWrite i w => some ("cb write " ++ toString i ++ ", " ++ toString w.toNat)
  | .txh => some "txh"
  | .feh => some "feh"
  | .dmaRx w => some ("dma_rx " ++ toString w.toNat)
  | .dmaTx => some "dma_tx"
  | .pllLock => some "env pll_lock"
  | .cbAck b => some ("env cb_ack " ++ toString b.toNat)
  | .wsToggle => some "env ws_toggle"
  | .frameError => some "env frame_error"
  | .dmaError .rx .te => some "env dma_error rx te"
  | .dmaError .rx .dme => some "env dma_error rx dme"
  | .dmaError .tx .te => some "env dma_error tx te"
  | .dmaError .tx .dme => some "env dma_error tx dme"

end Sys2Proof
end

