-- ==== Sys2Proof/Machine/State.lean ====
section
/-! DEFINITION. The architectural state (spec/10_state.md), the continuations of the multi-step procedures (R56), the
reasons the model stops, and the state after reset (R47, R240 to R242). -/

namespace Sys2Proof.Machine

/-- Driver Run State (R28). -/
inductive RunState where
  | uninitialized
  | configured
  | running
  | faulted
deriving DecidableEq, Repr

/-- The Error/Recovery State Machine; frame-error-pending is its second state (R24, R29, R180). -/
inductive RecState where
  | normal
  | frameErrorPending
  | recovering
deriving DecidableEq, Repr

/-- What DISP is doing (R23); a handler is active exactly when it is not `idle` (R55). -/
inductive DispPhase where
  | idle
  | recover
  | callback
deriving DecidableEq, Repr

/-- The phases of the control-bus engine (R23, R113). -/
inductive CbPhase where
  | start
  | addr
  | txd
  | rxd
  | stop
deriving DecidableEq, Repr

/-- The error codes, of which only six are ever produced (R210, U12). -/
inductive ErrCode where
  | ok
  | unsupportedRate
  | busTimeout
  | pllLockTimeout
  | invalidState
  | illegalCommand
deriving DecidableEq, Repr

/-- The symbols of the control bus (R83); a received byte is answered with not-acknowledge (R87). -/
inductive BusSymbol where
  /-- Start condition. -/
  | s
  /-- Repeated start condition. -/
  | sr
  /-- The engine sends a byte. -/
  | tx (b : Byte)
  /-- The engine receives a byte and answers not-acknowledge. -/
  | rxNack (b : Byte)
  /-- Stop condition. -/
  | p
deriving DecidableEq, Repr

/-- One bit for each cause of the receive channel: its status flags or its interrupt enables (R25, R31). -/
structure RxCauses where
  /-- Half transfer. -/
  ht : Bool
  /-- Full transfer complete. -/
  tc : Bool
  /-- Transfer error. -/
  te : Bool
  /-- Direct-mode error. -/
  dme : Bool
deriving DecidableEq, Repr

/-- One bit for each cause of the transmit channel, which has no half- or full-transfer cause (R26, R33). -/
structure TxCauses where
  /-- Transfer error. -/
  te : Bool
  /-- Direct-mode error. -/
  dme : Bool
deriving DecidableEq, Repr

/-- A register transaction of the control-bus engine (R110). -/
inductive Txn where
  | write (dev : BitVec 7) (reg : Byte) (val : Byte)
  | read (dev : BitVec 7) (reg : Byte)
deriving DecidableEq, Repr

/-- The lines of `cb_write` and `cb_read`, one for each phase (R115, R126). -/
inductive TxnStage where
  /-- Start condition. -/
  | start
  /-- Address byte, write direction. -/
  | addr
  /-- Framed register byte. -/
  | reg
  /-- Value byte (a write). -/
  | value
  /-- Repeated start (a read). -/
  | restart
  /-- Address byte, read direction (a read). -/
  | readAddr
  /-- Reception of one byte (a read). -/
  | receive
  /-- Stop condition. -/
  | stop
deriving DecidableEq, Repr

/-- Where inside a phase the engine is (R113). -/
inductive PhasePos where
  /-- The request is the next step. -/
  | request
  /-- The engine is polling; `left` poll steps remain. -/
  | poll (left : Nat)
deriving DecidableEq, Repr

/-- A transaction in progress (R56); `byte` is the local `b` of `cb_read`, set when the byte is received. -/
structure TxnRun where
  txn : Txn
  stage : TxnStage
  pos : PhasePos
  byte : Byte
deriving DecidableEq, Repr

/-- A codec sequence in progress: the transaction of its current entry, and the entries after it (R121, R56). -/
structure CodecRun where
  run : TxnRun
  rest : List (Byte × Byte)
deriving DecidableEq, Repr

/-- What `do_setup` does next, after its checks and the reprogramming of the PLL (R130, R106). -/
inductive SetupPos where
  /-- Polling `pll_locked`; `left` poll steps remain. -/
  | pll (left : Nat)
  /-- `cb_clk_on <- 1`. -/
  | clockOn
  /-- Inside `codec_start`. -/
  | codec (c : CodecRun)
  /-- `dma_configure`. -/
  | dmaConfigure
  /-- `zero_buffers` and `bufs_init <- 1`. -/
  | zeroBuffers
  /-- The last writes: `cfg_rate`, `cfg_valid`, `run_state`. -/
  | finish
deriving DecidableEq, Repr

/-- The continuation of FG's multi-step operation (R21, R56). -/
inductive FgProc where
  /-- SETUP. -/
  | setup (rate : BitVec 24) (pos : SetupPos)
  /-- START, polling the word-select line against the level `ws0`. -/
  | start (ws0 : Bool) (left : Nat)
  /-- WRITE_REGISTER or READ_REGISTER. -/
  | transaction (run : TxnRun)
deriving DecidableEq, Repr

/-- The continuation of DISP's recovery sequence (R183 to R189, R56). -/
inductive RecoveryProc where
  /-- Step (a): inside `correct_frame_error` (R184). -/
  | correct (c : CodecRun)
  /-- Step (b): `do_disable`, then gate the control-bus clock (R185). -/
  | teardown
  /-- Step (c): `do_setup(cfg_rate)` begins (R186). -/
  | setupBegin
  /-- Step (c): inside `do_setup` (R186). -/
  | setup (rate : BitVec 24) (pos : SetupPos)
  /-- Step (d): step A of `do_start` (R187). -/
  | startBegin
  /-- Step (d): the word-select wait of `do_start` (R187). -/
  | startWait (ws0 : Bool) (left : Nat)
  /-- The failure path, for error `e` (R189). -/
  | fail (e : ErrCode)
deriving DecidableEq, Repr

/-- Sample memory: the bytes that something has written, addresses strictly rising (R48, R49, R60). An address that is
not listed has no value (R242, U16); DESIGN CHOICE, entry 8. -/
abbrev Memory := List Host.Cell

/-- The state of the block. The fields are the elements of R47 under their names there, then the model's own. -/
structure State where
  /-- The parameters of R8, constant; the model's own field. DESIGN CHOICE, entry 4. -/
  params : Params
  /-- The command word (R20). -/
  cmd : Word32
  /-- The error code of the last completed operation (R20). -/
  rspErr : ErrCode
  /-- The result of the last completed operation (R20). -/
  rspData : Word32
  /-- A host operation is in progress (R21). -/
  fgBusy : Bool
  /-- The continuation of the operation in progress (R56). -/
  fgProc : Option FgProc
  /-- R28. -/
  runState : RunState
  /-- R29. -/
  recState : RecState
  /-- The half that software owns (R22). -/
  readyHalf : Half
  /-- R23. -/
  dispPhase : DispPhase
  /-- This invocation owes a callback (R23). -/
  dispBlock : Bool
  /-- The half handed to the callback (R22, R164). -/
  dispHalf : Half
  /-- The continuation of the recovery sequence (R56). -/
  dispProc : Option RecoveryProc
  /-- `rx_htif`, `rx_tcif`, `rx_teif`, `rx_dmeif` (R25). -/
  rxFlags : RxCauses
  /-- `rx_htie`, `rx_tcie`, `rx_teie`, `rx_dmeie` (R31). -/
  rxIrqEn : RxCauses
  /-- R31. -/
  rxEn : Bool
  /-- The receive channel's remaining-transfer count (R32). -/
  rxNdtr : BitVec 16
  /-- The other fields of `RX_CFG` (R31). -/
  rxCfg : ChannelConfig
  /-- `tx_teif`, `tx_dmeif` (R26). -/
  txFlags : TxCauses
  /-- `tx_teie`, `tx_dmeie` (R33). -/
  txIrqEn : TxCauses
  /-- R33. -/
  txEn : Bool
  /-- The transmit channel's remaining-transfer count (R34). -/
  txNdtr : BitVec 16
  /-- The other fields of `TX_CFG` (R33). -/
  txCfg : ChannelConfig
  /-- R35. -/
  clocksOn : Bool
  /-- R35. -/
  cbClkOn : Bool
  /-- R35. -/
  pllLocked : Bool
  /-- R36. -/
  busEn : Bool
  /-- R36. -/
  extRxEn : Bool
  /-- The level of the word-select line (R37). -/
  wsLine : Bool
  /-- The frame-synchronization-error status bit (R27). -/
  feStatus : Bool
  /-- R38. -/
  rxLineEn : Bool
  /-- R38. -/
  txLineEn : Bool
  /-- R38. -/
  feLineEn : Bool
  /-- R30. -/
  cfgValid : Bool
  /-- R30. -/
  cfgRate : BitVec 24
  /-- R30. -/
  cfgClk : ClockParams
  /-- The buffers have been zeroed (R41). -/
  bufsInit : Bool
  /-- The phase whose completion flag the engine is polling (R23); `none` when the engine is idle (R111). -/
  cbWait : Option CbPhase
  /-- `CB_SR` (R39). -/
  cbSr : BitVec 5
  /-- R39. -/
  cbRxByte : Byte
  /-- buffer-underrun-detected (R24). -/
  underrunFlag : Bool
  /-- R43. -/
  underrunCount : Word32
  /-- R43. -/
  teCount : Word32
  /-- R43. -/
  dmeCount : Word32
  /-- R44. -/
  recoveryCount : Word32
  /-- R44. -/
  recoveryFailCount : Word32
  /-- R44. -/
  callbackCount : Word32
  /-- R42. -/
  lastError : ErrCode
  /-- Items received since `start` (R52). -/
  rxProgress : Nat
  /-- Items sent since `start` (R52). -/
  txProgress : Nat
  /-- `rx_progress` at DISP's previous exit sample (R53). -/
  lastProgress : Nat
  /-- `RXBUF` and `TXBUF` (R49). -/
  mem : Memory
  /-- Control-bus symbols, in order (R57). -/
  cbTrace : List BusSymbol
  /-- Words sent, in order (R57). -/
  txTrace : List Item
  /-- Words received, in order (R57). -/
  rxTrace : List Item
  /-- The half of each callback invocation, in order (R57). -/
  callTrace : List Half
  /-- The moves to come, first one first; the model's own field. DESIGN CHOICE, entry 1. -/
  inputs : List Move
  /-- How many moves `Config.schedule` has given; the model's own field. DESIGN CHOICE, entry 1. -/
  tick : Nat
deriving DecidableEq, Repr

/-- Why the model stops. The block itself raises none of these (R62): no state that a run reaches takes them. -/
inductive Fault where
  /-- Raised by the item accesses when the address is none that R63 and R64 admit. Safe, entry 9. -/
  | outsideBuffers (addr : Nat)
  /-- Raised by a read of an item that nothing has written (R63, U16). Safe, entry 8. -/
  | unwrittenItem (addr : Nat)
deriving DecidableEq, Repr

/-- Why the model has no meaning for an instruction. -/
inductive Refusal where
  /-- Raised by an arm of `exec` whose instruction has no meaning yet; no arm is so. Safe. -/
  | notModelled (mnemonic : String)
deriving DecidableEq, Repr

/-- A step's outcome on this machine. -/
abbrev Outcome := Host.Outcome State Fault Refusal

/-- The machine right after reset, for given parameters (R47, R240 to R242). Elements without a reset value hold the
uninterpreted constants of Config. DESIGN CHOICE, entry 7. -/
def State.resetWith (p : Params) : State where
  params := p
  cmd := Config.resetCmd
  rspErr := .ok
  rspData := 0
  fgBusy := false
  fgProc := none
  runState := .uninitialized
  recState := .normal
  readyHalf := 1
  dispPhase := .idle
  dispBlock := false
  dispHalf := 0
  dispProc := none
  rxFlags := ⟨false, false, false, false⟩
  rxIrqEn := ⟨false, false, false, false⟩
  rxEn := false
  rxNdtr := 0
  rxCfg := Config.resetRxCfg
  txFlags := ⟨false, false⟩
  txIrqEn := ⟨false, false⟩
  txEn := false
  txNdtr := 0
  txCfg := Config.resetTxCfg
  clocksOn := false
  cbClkOn := false
  pllLocked := false
  busEn := false
  extRxEn := false
  wsLine := Config.resetWsLine
  feStatus := false
  rxLineEn := false
  txLineEn := false
  feLineEn := false
  cfgValid := false
  cfgRate := Config.resetCfgRate
  cfgClk := Config.resetCfgClk
  bufsInit := false
  cbWait := none
  cbSr := 0
  cbRxByte := Config.resetCbRxByte
  underrunFlag := false
  underrunCount := 0
  teCount := 0
  dmeCount := 0
  recoveryCount := 0
  recoveryFailCount := 0
  callbackCount := 0
  lastError := .ok
  rxProgress := 0
  txProgress := 0
  lastProgress := 0
  mem := []
  cbTrace := []
  txTrace := []
  rxTrace := []
  callTrace := []
  inputs := []
  tick := 0

/-- The machine right after reset (R240), for the parameters of the implementation. -/
def State.reset : State := State.resetWith Config.params

end Sys2Proof.Machine
end

