-- ==== Sys2Proof/Machine/Operands.lean ====
section
/-! DEFINITION. Operand forms: rates, the bytes of control-bus frames and their order, item addresses and block
pointers (R7, R67, R68, R84 to R91, R115, R126). -/

namespace Sys2Proof.Machine

/-- The member of `RATES` a rate operand is, if it is one (R7, R89, R101). -/
def rateOf (rate : BitVec 24) : Option Rate :=
  if rate = 16000#24 then some .hz16000
  else if rate = 32000#24 then some .hz32000
  else if rate = 44100#24 then some .hz44100
  else none

/-- `CLOCK_TABLE` (R8, R102). -/
def clockTable (p : Params) : Rate → ClockParams
  | .hz16000 => p.clock16000
  | .hz32000 => p.clock32000
  | .hz44100 => p.clock44100

/-- `addr_byte(dev, rw)`: the device address in bits 7:1 and the direction in bit 0 (R84, R90). The spec has this from
general knowledge (G1), entry 18. -/
def addrByte (dev : BitVec 7) (rw : BitVec 1) : Byte := dev ++ rw

/-- The codec's framing function `F(index, value)`: the first entry for the pair, else the index (R9, R85). Every
function of two bytes is such a table. DESIGN CHOICE of form, entry 5. -/
def frameByte (p : Params) (index value : Byte) : Byte :=
  match p.framing.find? (fun e => e.index == index && e.value == value) with
  | some e => e.byte
  | none => index

/-- The phase a line of a transaction is (R115, R126). -/
def stagePhase : TxnStage → CbPhase
  | .start => .start
  | .addr => .addr
  | .reg => .txd
  | .value => .txd
  | .restart => .start
  | .readAddr => .addr
  | .receive => .rxd
  | .stop => .stop

/-- The device address of a transaction. -/
def txnDev : Txn → BitVec 7
  | .write dev _ _ => dev
  | .read dev _ => dev

/-- The framed register byte of a transaction: `F(reg, val)`, and `F(reg, 0)` for a read (R85). -/
def txnFramed (p : Params) : Txn → Byte
  | .write _ reg val => frameByte p reg val
  | .read _ reg => frameByte p reg 0

/-- The symbol a line of a transaction puts on the bus with its request (R115, R126); a reception puts none (R114). -/
def stageSymbol (p : Params) (t : Txn) : TxnStage → Option BusSymbol
  | .start => some .s
  | .addr => some (.tx (addrByte (txnDev t) 0))
  | .reg => some (.tx (txnFramed p t))
  | .value => match t with
    | .write _ _ val => some (.tx val)
    | .read _ _ => none
  | .restart => some .sr
  | .readAddr => some (.tx (addrByte (txnDev t) 1))
  | .receive => none
  | .stop => some .p

/-- The line after a line of a transaction; after the stop line there is none (R115, R126). -/
def nextStage (t : Txn) : TxnStage → Option TxnStage
  | .start => some .addr
  | .addr => some .reg
  | .reg => match t with
    | .write _ _ _ => some .value
    | .read _ _ => some .restart
  | .value => some .stop
  | .restart => some .readAddr
  | .readAddr => some .receive
  | .receive => some .stop
  | .stop => none

/-- The byte address of `RXBUF[i]` (R12, R49). -/
def rxItemAddr (p : Params) (i : Nat) : Nat := p.rxBase + 2 * i

/-- The byte address of `TXBUF[i]` (R12, R49). -/
def txItemAddr (p : Params) (i : Nat) : Nat := p.txBase + 2 * i

/-- `in_block(h)`: where half `h` of `RXBUF` starts (R67). -/
def inBlock (p : Params) (h : Half) : Nat := p.rxBase + h.val * p.nRx

/-- `out_block(h)`: where half `h` of `TXBUF` starts (R67). -/
def outBlock (p : Params) (h : Half) : Nat := p.txBase + h.val * p.nTx

/-- The item, within a block, of frame `f` channel `c`, where a frame has `ch` channels (R68). -/
def frameItem (ch f c : Nat) : Nat := f * ch + c

/-- An address that `MemRead` and `MemWrite` admit: an item of `RXBUF` or of `TXBUF` (R63, R64). -/
def isItemAddr (p : Params) (a : Nat) : Bool :=
  (decide (p.rxBase ≤ a) && decide ((a - p.rxBase) % 2 = 0) && decide ((a - p.rxBase) / 2 < p.nRx))
    || (decide (p.txBase ≤ a) && decide ((a - p.txBase) % 2 = 0) && decide ((a - p.txBase) / 2 < p.nTx))

/-- `rx_idx`, the item DMA_RX writes next (R23, R32). -/
def State.rxIdx (s : State) : Nat := s.params.nRx - s.rxNdtr.toNat

/-- `tx_idx`, the item DMA_TX sends next (R23, R34). -/
def State.txIdx (s : State) : Nat := s.params.nTx - s.txNdtr.toNat

/-- The arguments of `process(in_block, out_block, frame_count, in_channels, out_channels)` (R91). -/
structure CallbackArgs where
  inBlock : Nat
  outBlock : Nat
  frameCount : Nat
  inChannels : Nat
  outChannels : Nat
deriving DecidableEq, Repr

/-- The arguments the callback is invoked with, from the latched half (R91, R164, R167). -/
def callbackArgs (s : State) : CallbackArgs where
  inBlock := inBlock s.params s.dispHalf
  outBlock := outBlock s.params s.dispHalf
  frameCount := s.params.blockFrames
  inChannels := Config.chIn
  outChannels := Config.chOut

end Sys2Proof.Machine
end

