-- ==== Sys2Proof/Machine/Flags.lean ====
section
/-! DEFINITION. Flag computations: request lines, the control-bus status register, saturating counters, the numeric
codes of the enumerations, and the packing of status words (R38, R39, R46, R202, R204, R210). -/

namespace Sys2Proof.Machine

/-- `irq_rx` (R38). -/
def irqRx (s : State) : Bool :=
  s.rxLineEn && ((s.rxFlags.ht && s.rxIrqEn.ht) || (s.rxFlags.tc && s.rxIrqEn.tc)
    || (s.rxFlags.te && s.rxIrqEn.te) || (s.rxFlags.dme && s.rxIrqEn.dme))

/-- `irq_tx` (R38). -/
def irqTx (s : State) : Bool :=
  s.txLineEn && ((s.txFlags.te && s.txIrqEn.te) || (s.txFlags.dme && s.txIrqEn.dme))

/-- `irq_fe` (R38). -/
def irqFe (s : State) : Bool := s.feLineEn && s.feStatus

/-- `sat_inc` (R11, R46). -/
def satInc (c : Word32) : Word32 := if c = 0xFFFFFFFF then c else c + 1

/-- The bit of `CB_SR` that is the completion flag of a phase (R39, R113). -/
def flagBit : CbPhase → Nat
  | .start => 0
  | .addr => 1
  | .txd => 2
  | .rxd => 3
  | .stop => 4

/-- `CB_SR[flag(X)]` (R39). -/
def cbFlag (sr : BitVec 5) (x : CbPhase) : Bool := sr.getLsbD (flagBit x)

/-- `CB_SR[flag(X)] <- 1` (R116). -/
def cbFlagSet (sr : BitVec 5) (x : CbPhase) : BitVec 5 := sr ||| (1#5 <<< flagBit x)

/-- `CB_SR[flag(X)] <- 0` (R113). -/
def cbFlagClear (sr : BitVec 5) (x : CbPhase) : BitVec 5 := sr &&& ~~~(1#5 <<< flagBit x)

/-- The encoding of `run_state` (R28). -/
def runStateCode : RunState → Word32
  | .uninitialized => 0
  | .configured => 1
  | .running => 2
  | .faulted => 3

/-- The encoding of `rec_state` (R29). -/
def recStateCode : RecState → Word32
  | .normal => 0
  | .frameErrorPending => 1
  | .recovering => 2

/-- The error codes (R210). -/
def errCode : ErrCode → BitVec 4
  | .ok => 0
  | .unsupportedRate => 1
  | .busTimeout => 2
  | .pllLockTimeout => 3
  | .invalidState => 4
  | .illegalCommand => 5

/-- The encoding of `disp_phase` (R23). -/
def dispPhaseCode : DispPhase → BitVec 2
  | .idle => 0
  | .recover => 1
  | .callback => 2

/-- The encoding of `cb_wait` (R23). -/
def cbWaitCode : Option CbPhase → BitVec 3
  | none => 0
  | some .start => 1
  | some .addr => 2
  | some .txd => 3
  | some .rxd => 4
  | some .stop => 5

/-- The number whose bits, from bit 0 upward, are the listed ones. -/
def bitsValue : List Bool → Nat
  | [] => 0
  | b :: bs => b.toNat + 2 * bitsValue bs

/-- A status word from its bits, bit 0 first; bits not listed are zero (R204). -/
def packBits (bs : List Bool) : Word32 := BitVec.ofNat 32 (bitsValue bs)

/-- Selector 2 (R204). -/
def faultFlagsWord (s : State) : Word32 :=
  packBits [decide (s.recState = .frameErrorPending), s.underrunFlag]

/-- Selector 12 (R204). -/
def enablesWord (s : State) : Word32 :=
  packBits [s.clocksOn, s.rxEn, s.txEn, s.busEn, s.extRxEn, s.cbClkOn, s.pllLocked, s.rxLineEn, s.txLineEn,
    s.feLineEn, s.bufsInit, s.cfgValid, s.feStatus]

/-- Selector 13 (R25, R204). -/
def rxFlagsWord (s : State) : Word32 :=
  packBits [s.rxFlags.ht, s.rxFlags.tc, s.rxFlags.te, s.rxFlags.dme,
    s.rxIrqEn.ht, s.rxIrqEn.tc, s.rxIrqEn.te, s.rxIrqEn.dme]

/-- Selector 14 (R26, R204). -/
def txFlagsWord (s : State) : Word32 :=
  packBits [false, false, s.txFlags.te, s.txFlags.dme, false, false, s.txIrqEn.te, s.txIrqEn.dme]

/-- The status values (R204). -/
def statusWord (s : State) : StatusName → Word32
  | .runState => runStateCode s.runState
  | .recState => recStateCode s.recState
  | .faultFlags => faultFlagsWord s
  | .underrunCount => s.underrunCount
  | .teCount => s.teCount
  | .dmeCount => s.dmeCount
  | .recoveryCount => s.recoveryCount
  | .callbackCount => s.callbackCount
  | .lastError => (errCode s.lastError).setWidth 32
  | .rxNdtr => s.rxNdtr.setWidth 32
  | .txNdtr => s.txNdtr.setWidth 32
  | .readyHalf => BitVec.ofNat 32 s.readyHalf.val
  | .enables => enablesWord s
  | .rxFlags => rxFlagsWord s
  | .txFlags => txFlagsWord s
  | .recoveryFailCount => s.recoveryFailCount

/-- The property values (R202). -/
def propertyWord (s : State) : PropertyName → Word32
  | .rate => s.cfgRate.setWidth 32
  | .blockLength => BitVec.ofNat 32 s.params.blockFrames
  | .inChannels => BitVec.ofNat 32 Config.chIn
  | .outChannels => BitVec.ofNat 32 Config.chOut

end Sys2Proof.Machine
end

