-- ==== Sys2Proof/Machine/Ops.lean ====
section
/-! DEFINITION. The named operations over memory and registers: item accesses (R60 to R64), the bounded poll (R13), the
delivery of an error and of a result (R211), who may run (R222, R228, R229), handler return (R223), and the atomic
groups of writes the procedures are made of. -/

namespace Sys2Proof.Machine

/-! ### Sample memory -/

/-- The canonical form of memory: addresses strictly rising. An unlisted address has no value, so no entry can equal
what an unlisted address reads as. -/
abbrev Memory.wf (m : Memory) : Prop := m.Pairwise (fun c d => c.1 < d.1)

/-- The byte at an address, if something has written it (R242, U16). DESIGN CHOICE, entry 8. -/
def Memory.byteAt : Memory → Nat → Option Byte
  | [], _ => none
  | c :: m, a => if a = c.1 then some c.2 else Memory.byteAt m a

/-- Memory with one byte stored. -/
def Memory.writeByte : Memory → Nat → Byte → Memory
  | [], a, v => [(a, v)]
  | c :: m, a, v =>
    if a < c.1 then (a, v) :: c :: m
    else if a = c.1 then (a, v) :: m
    else c :: Memory.writeByte m a v

/-- Memory with one item stored, its low byte at the lower address (R60). -/
def Memory.writeItem (m : Memory) (a : Nat) (v : Item) : Memory :=
  (m.writeByte a (v.extractLsb' 0 8)).writeByte (a + 1) (v.extractLsb' 8 8)

/-- The item at an address, if both of its bytes have been written (R60). -/
def Memory.itemAt (m : Memory) (a : Nat) : Option Item :=
  match m.byteAt a, m.byteAt (a + 1) with
  | some lo, some hi => some (hi ++ lo)
  | _, _ => none

/-- `MemRead(addr, 2)` (R63). -/
def memRead (s : State) (a : Nat) : Except Fault Item :=
  if isItemAddr s.params a then
    match s.mem.itemAt a with
    | some v => .ok v
    | none => .error (.unwrittenItem a)
  else .error (.outsideBuffers a)

/-- `MemWrite(addr, 2, v)` (R64). -/
def memWrite (s : State) (a : Nat) (v : Item) : Except Fault State :=
  if isItemAddr s.params a then .ok { s with mem := s.mem.writeItem a v }
  else .error (.outsideBuffers a)

/-- Memory with the `n` items from `base` on set to zero (R133). -/
def zeroItems (base : Nat) : Nat → Memory → Memory
  | 0, m => m
  | n + 1, m => (zeroItems base n m).writeItem (base + 2 * n) 0

/-- `zero_buffers()`, and `bufs_init <- 1` (R130, R133). -/
def zeroBuffers (s : State) : State :=
  { s with
    mem := zeroItems s.params.txBase s.params.nTx (zeroItems s.params.rxBase s.params.nRx s.mem)
    bufsInit := true }

/-! ### The bounded poll -/

/-- What one poll step answers: the condition held, the bound is reached, or `left` poll steps remain (R13). -/
inductive PollResult where
  | ok
  | timeout
  | again (left : Nat)
deriving DecidableEq, Repr

/-- One poll step with `left` of them allowed, this one among them (R13). -/
def pollStep (cond : Bool) (left : Nat) : PollResult :=
  if cond then .ok else if left ≤ 1 then .timeout else .again (left - 1)

/-- What one step of a multi-step procedure answers: where it goes on, that it returned, or what it raised. -/
inductive ProcResult (π : Type) where
  | going (pos : π) (s : State)
  | done (s : State)
  | failed (e : ErrCode) (s : State)

/-! ### Completion of a host operation -/

/-- A host operation completes successfully with `rsp_data = d` (R82, R211). -/
def succeed (d : Word32) (s : State) : State :=
  { s with rspErr := .ok, rspData := d, fgBusy := false, fgProc := none }

/-- A host operation completes with an error: the one way an error is delivered to the host (R12, R211). -/
def raiseError (e : ErrCode) (s : State) : State :=
  { s with rspErr := e, rspData := 0, lastError := e, fgBusy := false, fgProc := none }

/-- A multi-step host operation is in progress, its continuation `k` (R21). -/
def continueFg (k : FgProc) (s : State) : State := { s with fgBusy := true, fgProc := some k }

/-! ### Interrupts -/

/-- The three interrupt handlers (R220). -/
inductive Handler where
  | disp
  | txh
  | feh
deriving DecidableEq, Repr

/-- The handler that starts next: none while one is active, else the first of DISP, TXH, FEH whose line requests
(R222, R224, R228). Entry saves nothing (R222). The order RX over TX is the spec's choice, entry 20. -/
def handlerToStart (s : State) : Option Handler :=
  if s.dispPhase ≠ .idle then none
  else if irqRx s then some .disp
  else if irqTx s then some .txh
  else if irqFe s then some .feh
  else none

/-- FG may take a step: no handler is active and no request is pending (R229 (a)). -/
def fgMayStep (s : State) : Bool :=
  decide (s.dispPhase = .idle) && !irqRx s && !irqTx s && !irqFe s

/-- DISP returns: nothing is restored (R223). -/
def handlerReturn (s : State) : State := { s with dispPhase := .idle, dispProc := none }

/-- `invoke_callback()` (R167). -/
def invokeCallback (s : State) : State :=
  { s with
    callbackCount := satInc s.callbackCount
    callTrace := s.callTrace ++ [s.dispHalf]
    dispPhase := .callback
    dispProc := none }

/-! ### Atomic groups of writes -/

/-- `clock_configure` up to its poll: `cfg_clk` from the table, `pll_locked <- 0` (R102, R106). -/
def applyClock (r : Rate) (s : State) : State :=
  { s with cfgClk := clockTable s.params r, pllLocked := false }

/-- What a failure inside `do_setup` writes (R130, R131). -/
def invalidateConfig (s : State) : State :=
  { s with cfgValid := false, runState := .uninitialized }

/-- `dma_configure()` (R132). -/
def dmaConfigure (s : State) : State :=
  { s with
    rxEn := false
    txEn := false
    rxCfg := { circ := true, dir := .p2m, itemBits := Config.sampleBits, minc := true, pinc := false,
               count := BitVec.ofNat 16 s.params.nRx, burst := s.params.rxBurst }
    txCfg := { circ := true, dir := .m2p, itemBits := Config.sampleBits, minc := true, pinc := false,
               count := BitVec.ofNat 16 s.params.nTx, burst := s.params.txBurst }
    rxIrqEn := { ht := true, tc := true, te := true, dme := true }
    txIrqEn := { te := true, dme := true }
    rxFlags := { ht := false, tc := false, te := false, dme := false }
    txFlags := { te := false, dme := false } }

/-- The last writes of `do_setup` (R130). -/
def finishSetup (rate : BitVec 24) (s : State) : State :=
  { s with cfgRate := rate, cfgValid := true, runState := .configured }

/-- Step A of `do_start` (R134). -/
def armStream (s : State) : State :=
  { s with
    clocksOn := true
    rxFlags := { ht := false, tc := false, te := false, dme := false }
    txFlags := { te := false, dme := false }
    rxNdtr := BitVec.ofNat 16 s.params.nRx
    txNdtr := BitVec.ofNat 16 s.params.nTx
    rxProgress := 0
    txProgress := 0
    lastProgress := 0
    readyHalf := 1
    rxEn := true
    txEn := true
    busEn := true }

/-- Step B of `do_start` (R134). -/
def openStream (s : State) : State :=
  { s with extRxEn := true, rxLineEn := true, txLineEn := true, feLineEn := true, runState := .running }

/-- `do_disable()` (R137). -/
def doDisable (s : State) : State :=
  { s with
    rxLineEn := false
    txLineEn := false
    feLineEn := false
    rxFlags := { ht := false, tc := false, te := false, dme := false }
    txFlags := { te := false, dme := false }
    feStatus := false
    recState := if s.recState = .frameErrorPending then .normal else s.recState
    busEn := false
    extRxEn := false
    rxEn := false
    txEn := false
    clocksOn := false
    runState := if s.cfgValid then .configured else .uninitialized }

end Sys2Proof.Machine
end

