-- ==== Sys2Proof/Machine/Queries.lean ====
section
/-! DEFINITION. The queries GET_PROPERTY and GET_STATUS, and CLEAR_UNDERRUN (R200 to R206). -/

namespace Sys2Proof.Machine

/-- GET_PROPERTY (R201, R202). -/
def execGetProperty (sel : BitVec 2) (s : State) : Outcome :=
  .next (if s.cfgValid then succeed (propertyWord s (PropertyName.ofSelector sel)) s else raiseError .invalidState s)

/-- GET_STATUS (R203, R204). -/
def execGetStatus (sel : BitVec 4) (s : State) : Outcome :=
  .next (succeed (statusWord s (StatusName.ofSelector sel)) s)

/-- CLEAR_UNDERRUN (R205). -/
def execClearUnderrun (s : State) : Outcome :=
  .next (succeed (packBits [s.underrunFlag]) { s with underrunFlag := false })

end Sys2Proof.Machine
end

