-- ==== Sys2Proof/Machine/ControlBus.lean ====
section
/-! DEFINITION. The Control-Bus Protocol Engine (R110 to R126): one phase, one transaction, the codec sequences, and the
host operations WRITE_REGISTER and READ_REGISTER. -/

namespace Sys2Proof.Machine

/-- A transaction about to make its first request (R115, R126). -/
def beginTxn (t : Txn) : TxnRun := { txn := t, stage := .start, pos := .request, byte := 0 }

/-- The request of a phase: clear its flag, name it in `cb_wait`, put its symbol on the bus (R113). -/
def cbRequest (x : CbPhase) (sym : Option BusSymbol) (s : State) : State :=
  { s with
    cbSr := cbFlagClear s.cbSr x
    cbWait := some x
    cbTrace := s.cbTrace ++ sym.toList }

/-- The engine is idle again, `CB_SR` cleared (R111). -/
def cbIdle (s : State) : State := { s with cbSr := 0, cbWait := none }

/-- The abort of a transaction that timed out in stage `g`: one stop condition, unless it was the stop phase (R117). -/
def cbAbort (g : TxnStage) (s : State) : State :=
  cbIdle { s with cbTrace := if g = .stop then s.cbTrace else s.cbTrace ++ [.p] }

/-- The end of a phase whose flag came: `cb_wait <- None`, and a received byte is read and traced (R113, R114). -/
def cbPhaseOk (g : TxnStage) (s : State) : State :=
  { s with
    cbWait := none
    cbTrace := if g = .receive then s.cbTrace ++ [.rxNack s.cbRxByte] else s.cbTrace }

/-- The local `b` of `cb_read` after a phase of stage `g` (R126). -/
def cbByteAfter (r : TxnRun) (s : State) : Byte := if r.stage = .receive then s.cbRxByte else r.byte

/-- What one step of the engine answers. -/
inductive EngineResult where
  | going (r : TxnRun) (s : State)
  | done (b : Byte) (s : State)
  | timedOut (s : State)

/-- One step of the engine in a transaction: a request, or one poll step with everything that belongs to it (R113,
R115, R117, R126). Which writes share a step: entries 11 and 12. -/
def engineStep (r : TxnRun) (s : State) : EngineResult :=
  match r.pos with
  | .request =>
    .going { r with pos := .poll s.params.spinLimit }
      (cbRequest (stagePhase r.stage) (stageSymbol s.params r.txn r.stage) s)
  | .poll left =>
    match pollStep (cbFlag s.cbSr (stagePhase r.stage)) left with
    | .again k => .going { r with pos := .poll k } s
    | .timeout => .timedOut (cbAbort r.stage s)
    | .ok =>
      match nextStage r.txn r.stage with
      | some g => .going { r with stage := g, pos := .request, byte := cbByteAfter r s } (cbPhaseOk r.stage s)
      | none => .done r.byte (cbIdle (cbPhaseOk r.stage s))

/-- The writes a codec sequence still has to make, its first entry begun; `none` when nothing is left (R121). -/
def beginCodec (p : Params) : List (Byte × Byte) → Option CodecRun
  | [] => none
  | e :: rest => some { run := beginTxn (.write p.codecAddr e.1 e.2), rest := rest }

/-- One step of a codec sequence; the first `BusTimeout` ends it (R121, R125). -/
def codecStep (c : CodecRun) (s : State) : ProcResult CodecRun :=
  match engineStep c.run s with
  | .going r s' => .going { c with run := r } s'
  | .timedOut s' => .failed .busTimeout s'
  | .done _ s' =>
    match beginCodec s'.params c.rest with
    | some c' => .going c' s'
    | none => .done s'

/-- A register operation is admitted (R120). -/
def registerOpAdmitted (s : State) : Bool := s.cbClkOn && decide (s.runState ≠ .running)

/-- A host register operation begins, or is refused with `InvalidState` and no bus activity (R118 to R120). -/
def beginRegisterOp (t : Txn) (s : State) : State :=
  if registerOpAdmitted s then continueFg (.transaction (beginTxn t)) s
  else raiseError .invalidState s

/-- `rsp_data` of a register operation that succeeded with the byte `b` (R82, R90, R118, R119). -/
def txnResult : Txn → Byte → Word32
  | .write _ _ _, _ => 0
  | .read _ _, b => b.setWidth 32

/-- WRITE_REGISTER (R118). -/
def execWriteRegister (dev : BitVec 7) (reg val : BitVec 8) (s : State) : Outcome :=
  .next (beginRegisterOp (.write dev reg val) s)

/-- READ_REGISTER (R119). -/
def execReadRegister (dev : BitVec 7) (reg : BitVec 8) (s : State) : Outcome :=
  .next (beginRegisterOp (.read dev reg) s)

end Sys2Proof.Machine
end

