-- ==== Sys2Proof/Machine/Streaming.lean ====
section
/-! DEFINITION. The DMA Streaming Engine: `do_setup`, `do_start`, the host operations SETUP, START, DISABLE, and the item
steps of the two channels (R130 to R147). -/

namespace Sys2Proof.Machine

/-- `do_setup` begins: the rate check, the run-state check, and `clock_configure` up to its poll (R130, R106). -/
def setupBegin (rate : BitVec 24) (s : State) : ProcResult SetupPos :=
  match rateOf rate with
  | none => .failed .unsupportedRate s
  | some r =>
    if s.runState = .running then .failed .invalidState s
    else .going (.pll s.params.pllSpinLimit) (applyClock r s)

/-- Where `do_setup` goes on once the control-bus clock is on: into `codec_start`, unless it is empty (R121, R130). -/
def afterClockOn (p : Params) : SetupPos :=
  match beginCodec p p.cstartSeq with
  | some c => .codec c
  | none => .dmaConfigure

/-- One step of `do_setup(rate)` after it began (R130). -/
def setupStep (rate : BitVec 24) (pos : SetupPos) (s : State) : ProcResult SetupPos :=
  match pos with
  | .pll left =>
    match pollStep s.pllLocked left with
    | .ok => .going .clockOn s
    | .again k => .going (.pll k) s
    | .timeout => .failed .pllLockTimeout (invalidateConfig s)
  | .clockOn => .going (afterClockOn s.params) { s with cbClkOn := true }
  | .codec c =>
    match codecStep c s with
    | .going c' s' => .going (.codec c') s'
    | .done s' => .going .dmaConfigure s'
    | .failed e s' => .failed e (invalidateConfig s')
  | .dmaConfigure => .going (if s.bufsInit then .finish else .zeroBuffers) (dmaConfigure s)
  | .zeroBuffers => .going .finish (zeroBuffers s)
  | .finish => .done (finishSetup rate s)

/-- `do_start` begins: the run-state check and step A; the position holds `ws0` and the poll steps left (R134). -/
def startBegin (s : State) : ProcResult (Bool × Nat) :=
  if s.runState ≠ .configured then .failed .invalidState s
  else .going (s.wsLine, s.params.spinLimit) (armStream s)

/-- One poll step of `do_start`, with step B when the transition is seen and `do_disable` on the timeout (R134). -/
def startStep (ws0 : Bool) (left : Nat) (s : State) : ProcResult (Bool × Nat) :=
  match pollStep (s.wsLine != ws0) left with
  | .ok => .done (openStream s)
  | .again k => .going (ws0, k) s
  | .timeout => .failed .busTimeout (doDisable s)

/-- SETUP's procedure took a step: the operation goes on, completes or fails (R130, R211). -/
def settleSetup (rate : BitVec 24) : ProcResult SetupPos → State
  | .going pos s => continueFg (.setup rate pos) s
  | .done s => succeed 0 s
  | .failed e s => raiseError e s

/-- START's procedure took a step: the operation goes on, completes or fails (R134, R136, R211). -/
def settleStart : ProcResult (Bool × Nat) → State
  | .going pos s => continueFg (.start pos.1 pos.2) s
  | .done s => succeed 0 s
  | .failed e s => raiseError e s

/-- SETUP (R130). -/
def execSetup (rate : BitVec 24) (s : State) : Outcome := .next (settleSetup rate (setupBegin rate s))

/-- START (R134). -/
def execStart (s : State) : Outcome := .next (settleStart (startBegin s))

/-- DISABLE (R137). -/
def execDisable (s : State) : Outcome := .next (succeed 0 (doDisable s))

/-! ### The DMA channels -/

/-- DMA_RX has an enabled step (R141). -/
def dmaRxEnabled (s : State) : Bool := s.rxEn && s.busEn && s.extRxEn && s.clocksOn

/-- DMA_TX has an enabled step (R143). -/
def dmaTxEnabled (s : State) : Bool := s.txEn && s.busEn && s.clocksOn

/-- The counts and flags of DMA_RX after it moved one item (R141). That the count falls by one and reloads is from
general knowledge (G4), entry 19. -/
def rxAdvance (s : State) : State :=
  let n := s.rxNdtr - 1
  { s with
    rxProgress := s.rxProgress + 1
    rxNdtr := if n = 0 then BitVec.ofNat 16 s.params.nRx else n
    rxFlags := { s.rxFlags with
      ht := s.rxFlags.ht || decide (n.toNat = s.params.nRx / 2)
      tc := s.rxFlags.tc || decide (n = 0) } }

/-- The counts of DMA_TX after it moved one item (R143). -/
def txAdvance (s : State) : State :=
  let n := s.txNdtr - 1
  { s with
    txProgress := s.txProgress + 1
    txNdtr := if n = 0 then BitVec.ofNat 16 s.params.nTx else n }

/-- DMA_RX moves the word `w` (R141). -/
def dmaRxItem (w : Item) (s : State) : Outcome :=
  match memWrite s (rxItemAddr s.params s.rxIdx) w with
  | .error f => .fault f
  | .ok s' => .next (rxAdvance { s' with rxTrace := s'.rxTrace ++ [w] })

/-- DMA_TX moves one item (R143). -/
def dmaTxItem (s : State) : Outcome :=
  match memRead s (txItemAddr s.params s.txIdx) with
  | .error f => .fault f
  | .ok w => .next (txAdvance { s with txTrace := s.txTrace ++ [w] })

end Sys2Proof.Machine
end

