-- ==== Sys2Proof/Machine/Dispatch.lean ====
section
/-! DEFINITION. The meaning of each host operation, once accepted (R80). -/

namespace Sys2Proof.Machine

def exec (i : Instr) (s : State) : Host.Outcome State Fault Refusal :=
  match i with
  | .setup rate => Sys2Proof.Machine.execSetup rate s
  | .start => Sys2Proof.Machine.execStart s
  | .disable => Sys2Proof.Machine.execDisable s
  | .writeRegister dev reg val => Sys2Proof.Machine.execWriteRegister dev reg val s
  | .readRegister dev reg => Sys2Proof.Machine.execReadRegister dev reg s
  | .getProperty sel => Sys2Proof.Machine.execGetProperty sel s
  | .getStatus sel => Sys2Proof.Machine.execGetStatus sel s
  | .clearUnderrun => Sys2Proof.Machine.execClearUnderrun s

end Sys2Proof.Machine
end

