-- ==== Sys2Proof/Machine/Recovery.lean ====
section
/-! DEFINITION. The frame-error handler FEH and the recovery sequence DISP runs (R180 to R192). -/

namespace Sys2Proof.Machine

/-- FEH, one atomic step (R181). -/
def feh (s : State) : State :=
  { s with
    feStatus := false
    recState := if s.recState = .normal then .frameErrorPending else s.recState }

/-- Where the recovery sequence begins: step (a), or step (b) when `CFE_SEQ` is empty (R121, R184). -/
def recoveryStart (p : Params) : RecoveryProc :=
  match beginCodec p p.cfeSeq with
  | some c => .correct c
  | none => .teardown

/-- DISP consumes the pending flag (R183). -/
def beginRecovery (s : State) : State :=
  { s with
    recState := .recovering
    runState := .faulted
    dispPhase := .recover
    dispProc := some (recoveryStart s.params) }

/-- The recovery sequence goes on at `k`. -/
def continueRecovery (k : RecoveryProc) (s : State) : State := { s with dispProc := some k }

/-- Step (b) (R185). -/
def recoveryTeardown (s : State) : State := { doDisable s with cbClkOn := false }

/-- What step (d) adds to step B of `do_start`: back to `Normal`, count, then the callback that is owed, if any
(R187, R188). -/
def recoverySucceed (s : State) : State :=
  let t := { s with recState := .normal, recoveryCount := satInc s.recoveryCount }
  if t.dispBlock then invokeCallback t else handlerReturn t

/-- `recovery_fail(E)` (R189). -/
def recoveryFail (e : ErrCode) (s : State) : State :=
  handlerReturn
    { doDisable s with
      runState := .faulted
      recState := .normal
      lastError := e
      recoveryFailCount := satInc s.recoveryFailCount }

/-- Step (a) took a step (R184). -/
def settleCorrect : ProcResult CodecRun → State
  | .going c s => continueRecovery (.correct c) s
  | .done s => continueRecovery .teardown s
  | .failed e s => continueRecovery (.fail e) s

/-- Step (c) took a step (R186). -/
def settleRecoverySetup (rate : BitVec 24) : ProcResult SetupPos → State
  | .going pos s => continueRecovery (.setup rate pos) s
  | .done s => continueRecovery .startBegin s
  | .failed e s => continueRecovery (.fail e) s

/-- Step (d) took a step; its success ends the sequence in the same step (R187). -/
def settleRecoveryStart : ProcResult (Bool × Nat) → State
  | .going pos s => continueRecovery (.startWait pos.1 pos.2) s
  | .done s => recoverySucceed s
  | .failed e s => continueRecovery (.fail e) s

/-- One step of the recovery sequence at `k` (R184 to R189). -/
def recoveryStepAt (k : RecoveryProc) (s : State) : State :=
  match k with
  | .correct c => settleCorrect (codecStep c s)
  | .teardown => continueRecovery .setupBegin (recoveryTeardown s)
  | .setupBegin => settleRecoverySetup s.cfgRate (setupBegin s.cfgRate s)
  | .setup rate pos => settleRecoverySetup rate (setupStep rate pos s)
  | .startBegin => settleRecoveryStart (startBegin s)
  | .startWait ws0 left => settleRecoveryStart (startStep ws0 left s)
  | .fail e => recoveryFail e s

/-- One step of DISP inside the recovery sequence (R190). Without a continuation, which no run reaches, nothing happens
(entry 13). -/
def recoveryStep (s : State) : State :=
  match s.dispProc with
  | some k => recoveryStepAt k s
  | none => s

end Sys2Proof.Machine
end

