-- ==== Sys2Proof/Machine/Dispatcher.lean ====
section
/-! DEFINITION. The Audio I/O Dispatcher, the callback's accesses, and the transmit-channel handler (R160 to R179). -/

namespace Sys2Proof.Machine

/-- The transfer-error part of DISP's entry (R161). -/
def takeRxTe (s : State) : State :=
  if s.rxFlags.te then
    { s with rxFlags := { s.rxFlags with te := false }, teCount := satInc s.teCount }
  else s

/-- The direct-mode-error part of DISP's entry (R162). -/
def takeRxDme (s : State) : State :=
  if s.rxFlags.dme then
    { s with rxFlags := { s.rxFlags with dme := false }, dmeCount := satInc s.dmeCount }
  else s

/-- The full-transfer part of DISP's entry (R163). -/
def takeRxTc (s : State) : State :=
  if s.rxFlags.tc then
    { s with rxFlags := { s.rxFlags with tc := false }, readyHalf := 1, dispBlock := true }
  else s

/-- The half-transfer part of DISP's entry; second, so that it wins when both flags are set (R163). -/
def takeRxHt (s : State) : State :=
  if s.rxFlags.ht then
    { s with rxFlags := { s.rxFlags with ht := false }, readyHalf := 0, dispBlock := true }
  else s

/-- DISP's entry up to the handoff: the four causes in their order, and the half latched (R161 to R164). -/
def dispHandoff (s : State) : State :=
  let t := takeRxHt (takeRxTc (takeRxDme (takeRxTe { s with dispBlock := false })))
  { t with dispHalf := t.readyHalf }

/-- DISP's entry step, whole (R165, R166, R171). -/
def dispEntry (s : State) : State :=
  let t := dispHandoff s
  if t.recState = .frameErrorPending then beginRecovery t
  else if t.dispBlock then invokeCallback t
  else handlerReturn t

/-- `delta_bytes` of the exit step (R172, R173). -/
def deltaBytes (s : State) : Nat := Config.itemBytes * (s.rxProgress - s.lastProgress)

/-- DISP's exit step and the underrun test (R172). -/
def dispExit (s : State) : State :=
  let t :=
    if deltaBytes s > s.params.dbufBytesRx then
      { s with underrunFlag := true, underrunCount := satInc s.underrunCount }
    else s
  handlerReturn { t with lastProgress := t.rxProgress }

/-- The address of item `i` of the callback's receive block (R168, R234). -/
def cbReadAddr (s : State) (i : Nat) : Nat := inBlock s.params s.dispHalf + 2 * i

/-- The address of item `i` of the callback's transmit block (R169, R234). -/
def cbWriteAddr (s : State) (i : Nat) : Nat := outBlock s.params s.dispHalf + 2 * i

/-- What the callback obtains by `cb read i` (R168); no state of the block holds it, entry 21. -/
def cbReadValue (i : Nat) (s : State) : Except Fault Item := memRead s (cbReadAddr s i)

/-- CB step `cb read i`: no state changes (R168). -/
def cbReadStep (i : Nat) (s : State) : Outcome :=
  match cbReadValue i s with
  | .error f => .fault f
  | .ok _ => .next s

/-- CB step `cb write i, w` (R169). -/
def cbWriteStep (i : Nat) (w : Item) (s : State) : Outcome :=
  match memWrite s (cbWriteAddr s i) w with
  | .error f => .fault f
  | .ok s' => .next s'

/-- The transfer-error part of TXH (R177). -/
def takeTxTe (s : State) : State :=
  if s.txFlags.te then
    { s with txFlags := { s.txFlags with te := false }, teCount := satInc s.teCount }
  else s

/-- The direct-mode-error part of TXH (R177). -/
def takeTxDme (s : State) : State :=
  if s.txFlags.dme then
    { s with txFlags := { s.txFlags with dme := false }, dmeCount := satInc s.dmeCount }
  else s

/-- TXH, one atomic step (R177). -/
def txh (s : State) : State := takeTxDme (takeTxTe s)

end Sys2Proof.Machine
end

