-- ==== Sys2Proof/Machine/Environment.lean ====
section
/-! DEFINITION. The environment's steps: PLL lock, control-bus completion, word-select line, frame error, DMA errors
(R104, R116, R148 to R150). -/

namespace Sys2Proof.Machine

/-- `pll_lock` (R104). -/
def pllLock (s : State) : State := { s with pllLocked := true }

/-- `cb_ack` is enabled: a phase is waiting and its flag is 0 (R116). -/
def cbAckEnabled (s : State) : Bool :=
  match s.cbWait with
  | none => false
  | some x => !cbFlag s.cbSr x

/-- `cb_ack` with the drawn byte `b`, which only a reception stores (R116). -/
def cbAck (b : Byte) (s : State) : State :=
  match s.cbWait with
  | none => s
  | some x =>
    { s with
      cbSr := cbFlagSet s.cbSr x
      cbRxByte := if x = .rxd then b else s.cbRxByte }

/-- `ws_toggle` (R148). -/
def wsToggle (s : State) : State := { s with wsLine := !s.wsLine }

/-- `frame_error` is enabled (R149). -/
def frameErrorEnabled (s : State) : Bool := s.extRxEn && !s.feStatus

/-- `frame_error` (R149). -/
def frameError (s : State) : State := { s with feStatus := true }

/-- `dma_error` is enabled (R150). -/
def dmaErrorEnabled (ch : Channel) (s : State) : Bool :=
  match ch with
  | .rx => s.rxEn && s.clocksOn
  | .tx => s.txEn && s.clocksOn

/-- `dma_error` (R150). The channel goes on (R144); that it does is the spec's choice (U9), entry 17. -/
def dmaError (ch : Channel) (kind : DmaErrorKind) (s : State) : State :=
  match ch, kind with
  | .rx, .te => { s with rxFlags := { s.rxFlags with te := true } }
  | .rx, .dme => { s with rxFlags := { s.rxFlags with dme := true } }
  | .tx, .te => { s with txFlags := { s.txFlags with te := true } }
  | .tx, .dme => { s with txFlags := { s.txFlags with dme := true } }

end Sys2Proof.Machine
end

