-- ==== Sys2Proof/Machine/Foreground.lean ====
section
/-! DEFINITION. The foreground continues its multi-step operation (R21, R56, R229 (a)). -/

namespace Sys2Proof.Machine

/-- A register operation took a step: it goes on, completes or fails with `BusTimeout` (R118, R119, R211). -/
def settleTxn (t : Txn) : EngineResult → State
  | .going r s => continueFg (.transaction r) s
  | .done b s => succeed (txnResult t b) s
  | .timedOut s => raiseError .busTimeout s

/-- One step of the operation in progress at `k`. -/
def fgStepAt (k : FgProc) (s : State) : State :=
  match k with
  | .setup rate pos => settleSetup rate (setupStep rate pos s)
  | .start ws0 left => settleStart (startStep ws0 left s)
  | .transaction r => settleTxn r.txn (engineStep r s)

/-- One step of FG inside a multi-step operation. Without a continuation, which no run reaches, nothing happens
(entry 13). -/
def fgStep (s : State) : State :=
  match s.fgProc with
  | some k => fgStepAt k s
  | none => s

end Sys2Proof.Machine
end

