-- ==== Sys2Proof/Machine/Agents.lean ====
section
/-! DEFINITION. The agents of R14: when each move is enabled, what it does, how a command word is accepted, and which
move comes next. -/

namespace Sys2Proof.Machine

/-- The block accepts a command now: FG may step and no operation is in progress (R45, R80, R229 (a)). -/
def acceptsCommand (s : State) : Bool := !s.fgBusy && fgMayStep s

/-- A command word is accepted: decoded and executed, or illegal (R80, R93, R94, R217). -/
def accept (w : Word32) (s : State) : Outcome :=
  match decode w with
  | .ok i => exec i { s with cmd := w }
  | .error _ => .next (raiseError .illegalCommand { s with cmd := w })

/-- The move is a step its agent has in this state (R14 and the rules of each agent). -/
def enabled (m : Move) (s : State) : Bool :=
  match m with
  | .command _ => acceptsCommand s
  | .fg => s.fgBusy && fgMayStep s
  | .dispEntry => decide (handlerToStart s = some .disp)
  | .disp => decide (s.dispPhase = .recover)
  | .dispExit => decide (s.dispPhase = .callback)
  | .cbRead i => decide (s.dispPhase = .callback) && decide (i < s.params.blockItemsRx)
  | .cbWrite i _ => decide (s.dispPhase = .callback) && decide (i < s.params.blockItemsTx)
  | .txh => decide (handlerToStart s = some .txh)
  | .feh => decide (handlerToStart s = some .feh)
  | .dmaRx _ => dmaRxEnabled s
  | .dmaTx => dmaTxEnabled s
  | .pllLock => !s.pllLocked
  | .cbAck _ => cbAckEnabled s
  | .wsToggle => true
  | .frameError => frameErrorEnabled s
  | .dmaError ch _ => dmaErrorEnabled ch s

/-- What an enabled move does. -/
def act (m : Move) (s : State) : Outcome :=
  match m with
  | .command w => accept w s
  | .fg => .next (fgStep s)
  | .dispEntry => .next (dispEntry s)
  | .disp => .next (recoveryStep s)
  | .dispExit => .next (dispExit s)
  | .cbRead i => cbReadStep i s
  | .cbWrite i w => cbWriteStep i w s
  | .txh => .next (txh s)
  | .feh => .next (feh s)
  | .dmaRx w => dmaRxItem w s
  | .dmaTx => dmaTxItem s
  | .pllLock => .next (pllLock s)
  | .cbAck b => .next (cbAck b s)
  | .wsToggle => .next (wsToggle s)
  | .frameError => .next (frameError s)
  | .dmaError ch kind => .next (dmaError ch kind s)

/-- A move is taken: what it does when it is enabled; a move that is no step of its agent changes nothing.
DESIGN CHOICE, entry 2. -/
def take (m : Move) (s : State) : Outcome := if enabled m s then act m s else .next s

/-- The move that comes next: the first of `inputs`, and where there is none what the uninterpreted schedule gives.
DESIGN CHOICE, entry 1. -/
def nextMove (s : State) : Move :=
  match s.inputs with
  | m :: _ => m
  | [] => Config.schedule s.tick

/-- The state once the next move has been chosen. DESIGN CHOICE, entry 1. -/
def afterChoice (s : State) : State :=
  match s.inputs with
  | _ :: rest => { s with inputs := rest }
  | [] => { s with tick := s.tick + 1 }

/-- A command word becomes the next move. -/
def presentCommand (w : Word32) (s : State) : State := { s with inputs := .command w :: s.inputs }

end Sys2Proof.Machine
end

