-- ==== Sys2Proof/Machine/Step.lean ====
section
/-! DEFINITION. One step of the machine: one atomic step of one agent (R14). -/

namespace Sys2Proof.Machine

/-- One agent takes one atomic step (R14, R230). -/
def step (s : State) : Host.Outcome State Fault Refusal := take (nextMove s) (afterChoice s)

/-- The state whose next move presents the command word the table's bits give (entry 3). -/
def State.withFetchWord (s : State) (nbits w : Nat) : State :=
  presentCommand (BitVec.ofNat 32 (w % 2 ^ nbits)) s

end Sys2Proof.Machine
end

