-- ==== Sys2Proof/Safety.lean ====
section
/-! DEFINITION. The terms claims are made in: runs of moves, the environment's good and bad behaviour (R123, R124, R147),
weak fairness (R231), the work a procedure has left (R13), the block's invariant, and what a run may not depend on. -/

namespace Sys2Proof.Machine

/-! ### Runs -/

/-- The listed moves, one after another (R14). -/
def runMoves : List Move → State → Outcome
  | [], s => .next s
  | m :: ms, s =>
    match take m s with
    | .next t => runMoves ms t
    | .fault f => .fault f
    | .refused r => .refused r

/-- What `f` makes of an outcome's next state; a fault or a refusal stays. -/
def andThen (o : Outcome) (f : State → Outcome) : Outcome :=
  match o with
  | .next s => f s
  | .fault e => .fault e
  | .refused r => .refused r

/-- `f` for each of the listed things, one after another: a run whose moves may depend on the state they are taken in. -/
def runEach {α : Type} (f : α → State → Outcome) : List α → State → Outcome
  | [], s => .next s
  | a :: as, s => andThen (f a s) (runEach f as)

/-- `r` is the run that schedule `σ` gives: its `n`-th step is the move `σ n`. -/
def IsRun (σ : Nat → Move) (r : Nat → State) : Prop := ∀ n, take (σ n) (r n) = .next (r (n + 1))

/-- The agents' steps that weak fairness speaks of (R231): nothing is assumed of ENV's. -/
inductive FairStep where
  | fg
  | dispEntry
  | disp
  | dispExit
  | txh
  | feh
  | dmaRx
  | dmaTx
deriving DecidableEq, Repr

/-- The move is this agent's step, whatever it draws. -/
def FairStep.isStep : FairStep → Move → Bool
  | .fg, .fg => true
  | .dispEntry, .dispEntry => true
  | .disp, .disp => true
  | .dispExit, .dispExit => true
  | .txh, .txh => true
  | .feh, .feh => true
  | .dmaRx, .dmaRx _ => true
  | .dmaTx, .dmaTx => true
  | _, _ => false

/-- The agent has this step in the state, whatever it draws. -/
def FairStep.canStep : FairStep → State → Bool
  | .fg, s => enabled .fg s
  | .dispEntry, s => enabled .dispEntry s
  | .disp, s => enabled .disp s
  | .dispExit, s => enabled .dispExit s
  | .txh, s => enabled .txh s
  | .feh, s => enabled .feh s
  | .dmaRx, s => dmaRxEnabled s
  | .dmaTx, s => dmaTxEnabled s

/-- Weak fairness: "An agent step that stays enabled is eventually taken" (R231). -/
def WeaklyFair (σ : Nat → Move) (r : Nat → State) : Prop :=
  ∀ (a : FairStep) (n : Nat), (∀ m, n ≤ m → a.canStep (r m) = true) → ∃ m, n ≤ m ∧ a.isStep (σ m) = true

/-- `LOCKSTEP(k)` at a state (R147). -/
def Lockstep (k : Nat) (s : State) : Prop := s.rxProgress ≤ s.txProgress ∧ s.txProgress - s.rxProgress ≤ k

/-! ### The textual form -/

/-- The mnemonics as R97 and R98 write them. -/
def mnemonicTexts : List (TextMnemonic × String) :=
  [ (.setup, "setup"), (.start, "start"), (.disable, "disable"), (.writeRegister, "write_register"),
    (.readRegister, "read_register"), (.getProperty, "get_property"), (.getStatus, "get_status"), (.clearUnderrun, "clear_underrun"),
    (.audioHwSetup, "audio_hw_setup"), (.restart, "restart") ]

/-- The table of R202: each property, its selector and its name. -/
def propertyNumbers : List (PropertyName × Nat × String) :=
  [ (.rate, 0, "rate"), (.blockLength, 1, "block_length"), (.inChannels, 2, "in_channels"), (.outChannels, 3, "out_channels") ]

/-- The table of R204: each status selector, its number and its name. -/
def statusNumbers : List (StatusName × Nat × String) :=
  [ (.runState, 0, "run_state"), (.recState, 1, "rec_state"), (.faultFlags, 2, "fault_flags"),
    (.underrunCount, 3, "underrun_count"), (.teCount, 4, "te_count"), (.dmeCount, 5, "dme_count"),
    (.recoveryCount, 6, "recovery_count"), (.callbackCount, 7, "callback_count"), (.lastError, 8, "last_error"),
    (.rxNdtr, 9, "rx_ndtr"), (.txNdtr, 10, "tx_ndtr"), (.readyHalf, 11, "ready_half"),
    (.enables, 12, "enables"), (.rxFlags, 13, "rx_flags"), (.txFlags, 14, "tx_flags"),
    (.recoveryFailCount, 15, "recovery_fail_count") ]

/-! ### Rates -/

/-- `rate` is a member of `RATES`, and `clk` is what `CLOCK_TABLE` gives for it (R7, R8). -/
def RateClock (p : Params) (rate : BitVec 24) (clk : ClockParams) : Prop :=
  (rate = 16000#24 ∧ clk = p.clock16000) ∨ (rate = 32000#24 ∧ clk = p.clock32000)
    ∨ (rate = 44100#24 ∧ clk = p.clock44100)

/-- `rate` is not a member of `RATES` (R7, R101). -/
def Unsupported (rate : BitVec 24) : Prop := rate ≠ 16000#24 ∧ rate ≠ 32000#24 ∧ rate ≠ 44100#24

/-! ### The environment on the control bus -/

/-- One phase of FG's transaction that the device acknowledges before the first poll step, with byte `b` (R123 (a)). -/
def fgAcked (b : Byte) : List Move := [.fg, .cbAck b, .fg]

/-- One phase of DISP's transaction that the device acknowledges before the first poll step. -/
def dispAcked : List Move := [.disp, .cbAck 0, .disp]

/-- One phase of FG's transaction that the device acknowledges, with byte `b`, after `k` poll steps saw 0 (R116). -/
def fgAckedAfter (k : Nat) (b : Byte) : List Move := .fg :: List.replicate k .fg ++ [.cbAck b, .fg]

/-- The phases of a transaction one after another, each acknowledged with `b` after the listed number of poll steps. -/
def ackedPhases (ks : List Nat) (b : Byte) : List Move := ks.flatMap (fun k => fgAckedAfter k b)

/-- A phase of FG's transaction on a stalled bus: the request, and every poll step sees 0 (R124). -/
def fgStalled (p : Params) : List Move := .fg :: List.replicate p.spinLimit .fg

/-- The symbols of a complete write (R87, R115). -/
def writeFrame (p : Params) (dev : BitVec 7) (reg val : Byte) : List BusSymbol :=
  [.s, .tx (addrByte dev 0), .tx (frameByte p reg val), .tx val, .p]

/-- The symbols of a complete read that returned `b` (R87, R126). -/
def readFrame (p : Params) (dev : BitVec 7) (reg b : Byte) : List BusSymbol :=
  [.s, .tx (addrByte dev 0), .tx (frameByte p reg 0), .sr, .tx (addrByte dev 1), .rxNack b, .p]

/-- The faithful simulator's map after it saw the listed symbols: each complete write frame `S, TX(a), TX(x), TX(v), P`
addressed to `dev` sets `cell[x] <- v`, and nothing else changes the map (R123 (b); the address byte's form is R84's,
entry 18). -/
def simCells (dev : BitVec 7) (cell : Byte → Byte) : List BusSymbol → Byte → Byte
  | [] => cell
  | .s :: .tx a :: .tx x :: .tx v :: .p :: rest =>
    simCells dev (if a.toNat = 2 * dev.toNat then fun y => if y = x then v else cell y else cell) rest
  | _ :: rest => simCells dev cell rest

/-- The byte `x` that the write part of the read frame in progress carried, if the symbols end in the write part and the
repeated start of a read frame addressed to `dev` (R123 (b)). -/
def simReadPart (dev : BitVec 7) : List BusSymbol → Option Byte
  | [] => none
  | [.s, .tx a, .tx x, .sr, .tx b] =>
    if a.toNat = 2 * dev.toNat ∧ b.toNat = 2 * dev.toNat + 1 then some x else none
  | _ :: rest => simReadPart dev rest

/-- The byte the faithful simulator draws after it saw the listed symbols: `cell[x]` in the read part of a read frame whose
write part carried `TX(x)` (R123 (b)). A device that is not addressed leaves the byte to `other`. -/
def simByte (dev : BitVec 7) (cell : Byte → Byte) (other : Byte) (seen : List BusSymbol) : Byte :=
  match simReadPart dev seen with
  | some x => simCells dev cell seen x
  | none => other

/-! ### Work left -/

/-- The phases a transaction still has at a stage, this one among them. -/
def stagesLeft (t : Txn) : TxnStage → Nat
  | .stop => 1
  | .receive => 2
  | .value => 2
  | .readAddr => 3
  | .restart => 4
  | .reg => match t with
    | .write _ _ _ => 3
    | .read _ _ => 5
  | .addr => match t with
    | .write _ _ _ => 4
    | .read _ _ => 6
  | .start => match t with
    | .write _ _ _ => 5
    | .read _ _ => 7

/-- A bound on the steps a whole phase takes: its request and its poll steps. -/
def phaseSteps (p : Params) : Nat := max p.spinLimit 1 + 1

/-- A bound on the steps the current phase still takes. -/
def phaseWork (p : Params) : PhasePos → Nat
  | .request => phaseSteps p
  | .poll left => max left 1

/-- A bound on the steps a transaction still takes. -/
def txnWork (p : Params) (r : TxnRun) : Nat := (stagesLeft r.txn r.stage - 1) * phaseSteps p + phaseWork p r.pos

/-- A bound on the steps of `n` codec writes. -/
def writesWork (p : Params) (n : Nat) : Nat := n * (5 * phaseSteps p)

/-- A bound on the steps a codec sequence still takes. -/
def codecWork (p : Params) (c : CodecRun) : Nat := txnWork p c.run + writesWork p c.rest.length

/-- A bound on the steps `do_setup` still takes. -/
def setupWork (p : Params) : SetupPos → Nat
  | .finish => 1
  | .zeroBuffers => 2
  | .dmaConfigure => 3
  | .codec c => codecWork p c + 3
  | .clockOn => writesWork p p.cstartSeq.length + 4
  | .pll left => max left 1 + (writesWork p p.cstartSeq.length + 4)

/-- A bound on the steps a host operation in progress still takes. -/
def fgWork (p : Params) : FgProc → Nat
  | .setup _ pos => setupWork p pos
  | .start _ left => max left 1
  | .transaction r => txnWork p r

/-- A bound on the steps of step (d) from its beginning. -/
def restartWork (p : Params) : Nat := max p.spinLimit 1 + 2

/-- A bound on the steps from step (c)'s beginning. -/
def resetupWork (p : Params) : Nat := setupWork p (.pll p.pllSpinLimit) + restartWork p + 1

/-- A bound on the steps the recovery sequence still takes. -/
def recoveryWork (p : Params) : RecoveryProc → Nat
  | .fail _ => 1
  | .startWait _ left => max left 1 + 1
  | .startBegin => restartWork p
  | .setup _ pos => setupWork p pos + restartWork p
  | .setupBegin => resetupWork p
  | .teardown => resetupWork p + 1
  | .correct c => codecWork p c + (resetupWork p + 1)

/-! ### The invariant -/

/-- The address is a byte of `RXBUF` or of `TXBUF` (R49). -/
abbrev inBuffers (p : Params) (a : Nat) : Prop :=
  (p.rxBase ≤ a ∧ a < p.rxBase + p.dbufBytesRx) ∨ (p.txBase ≤ a ∧ a < p.txBase + p.dbufBytesTx)

/-- `do_setup` at this position is for a supported rate, `dma_configure` and the zeroing have happened where its last
writes are next, and the zeroing is next only if it has not happened before (R133). -/
def SetupPosOk (s : State) (rate : BitVec 24) (pos : SetupPos) : Prop :=
  (rateOf rate).isSome = true
    ∧ (pos = .finish → s.bufsInit = true)
    ∧ (pos = .zeroBuffers → s.bufsInit = false)
    ∧ (pos = .finish ∨ pos = .zeroBuffers →
        s.rxIrqEn = ⟨true, true, true, true⟩ ∧ s.txIrqEn = ⟨true, true⟩)

/-- The engine's registers fit a transaction in progress: a phase is waited for exactly while it is polled (R113). -/
def TxnOk (s : State) (r : TxnRun) : Prop :=
  match r.pos with
  | .request => s.cbWait = none
  | .poll _ => s.cbWait = some (stagePhase r.stage)

/-- The transaction in progress inside `do_setup`, if there is one. -/
def SetupPos.txn? : SetupPos → Option TxnRun
  | .codec c => some c.run
  | _ => none

/-- The transaction FG has in progress, if it has one. -/
def FgProc.txn? : FgProc → Option TxnRun
  | .setup _ pos => pos.txn?
  | .start _ _ => none
  | .transaction r => some r

/-- The transaction DISP has in progress, if it has one. -/
def RecoveryProc.txn? : RecoveryProc → Option TxnRun
  | .correct c => some c.run
  | .setup _ pos => pos.txn?
  | _ => none

/-- The transaction in progress, if there is one (R110). -/
def State.txn? (s : State) : Option TxnRun :=
  match s.fgProc with
  | some k => k.txn?
  | none => match s.dispProc with
    | some k => k.txn?
    | none => none

/-- The foreground's part: `fg_busy` says whether there is a continuation (R21), an operation in progress runs with the
processor to itself and with every interrupt line masked (R229 (d)). -/
structure ForegroundInv (s : State) : Prop where
  busy_iff : s.fgBusy = s.fgProc.isSome
  busy_alone : s.fgBusy = true → s.dispPhase = .idle ∧ s.runState ≠ .running
  busy_masked : s.fgBusy = true → s.rxLineEn = false ∧ s.txLineEn = false ∧ s.feLineEn = false
  setup_ok : ∀ rate pos, s.fgProc = some (.setup rate pos) → SetupPosOk s rate pos
  start_ok : ∀ ws0 left, s.fgProc = some (.start ws0 left) → s.runState = .configured ∧ s.clocksOn = true

/-- DISP's part: the recovery sequence and `rec_state = Recovering` go together (R29, R180, R192). -/
structure DispatcherInv (s : State) : Prop where
  proc_iff : s.dispProc.isSome = true ↔ s.dispPhase = .recover
  recovering_iff : s.recState = .recovering ↔ s.dispPhase = .recover
  setup_ok : ∀ rate pos, s.dispProc = some (.setup rate pos) → SetupPosOk s rate pos
  armed_part : ∀ k, s.dispProc = some k → (∃ c, k = .correct c) ∨ k = .teardown →
    s.runState = .faulted ∧ s.cfgValid = true
  later_part : ∀ k, s.dispProc = some k →
    k = .setupBegin ∨ (∃ r p, k = .setup r p) ∨ k = .startBegin ∨ (∃ w n, k = .startWait w n) →
    s.runState = .configured
  wait_armed : ∀ ws0 left, s.dispProc = some (.startWait ws0 left) → s.clocksOn = true
  active_init : s.dispPhase ≠ .idle → s.bufsInit = true
  callback_state : s.dispPhase = .callback → s.runState = .running

/-- The run state's part (R28, R30, R182). -/
structure RunStateInv (s : State) : Prop where
  uninitialized_iff : s.runState ≠ .faulted → (s.runState = .uninitialized ↔ s.cfgValid = false)
  pending_running : s.recState = .frameErrorPending → s.runState = .running
  valid_config : s.cfgValid = true →
    s.bufsInit = true ∧ (rateOf s.cfgRate).isSome = true
      ∧ s.rxIrqEn = ⟨true, true, true, true⟩ ∧ s.txIrqEn = ⟨true, true⟩
  running_enables : s.runState = .running →
    s.cfgValid = true ∧ s.clocksOn = true ∧ s.extRxEn = true
      ∧ s.rxLineEn = true ∧ s.txLineEn = true ∧ s.feLineEn = true
  lines_need : s.rxLineEn = true ∨ s.txLineEn = true ∨ s.feLineEn = true ∨ s.extRxEn = true →
    s.runState = .running ∨ (s.runState = .faulted ∧ s.dispPhase = .recover)

/-- The streaming engine's part (R25, R27, R32, R34, R52, R134, R137). -/
structure StreamInv (s : State) : Prop where
  one_switch : s.rxEn = s.clocksOn ∧ s.txEn = s.clocksOn ∧ s.busEn = s.clocksOn
  armed_when : s.clocksOn = true →
    s.runState = .running ∨ (∃ w n, s.fgProc = some (.start w n)) ∨ (∃ c, s.dispProc = some (.correct c))
      ∨ s.dispProc = some .teardown ∨ (∃ w n, s.dispProc = some (.startWait w n))
      ∨ (∃ e, s.dispProc = some (.fail e))
  ext_armed : s.extRxEn = true → s.clocksOn = true
  armed_valid : s.clocksOn = true → s.bufsInit = true
  rx_residue : s.clocksOn = true → s.rxNdtr.toNat = s.params.nRx - s.rxProgress % s.params.nRx
  tx_residue : s.clocksOn = true → s.txNdtr.toNat = s.params.nTx - s.txProgress % s.params.nTx
  sample_le : s.lastProgress ≤ s.rxProgress
  fe_gated : s.feStatus = true → s.extRxEn = true
  rx_flags_armed : s.rxFlags ≠ ⟨false, false, false, false⟩ → s.clocksOn = true
  tx_flags_armed : s.txFlags ≠ ⟨false, false⟩ → s.clocksOn = true

/-- The control-bus engine's part: idle with `CB_SR = 0` unless a transaction is in progress (R110, R111, R113). -/
structure EngineInv (s : State) : Prop where
  idle_clear : s.txn? = none → s.cbWait = none ∧ s.cbSr = 0
  txn_ok : ∀ r, s.txn? = some r → TxnOk s r

/-- Memory's part: canonical, nothing listed outside the buffers, and every byte of them written once they were
initialised (R41, R49, R63). -/
structure MemoryInv (s : State) : Prop where
  canonical : s.mem.wf
  inside : ∀ c ∈ s.mem, inBuffers s.params c.1
  written : s.bufsInit = true → ∀ a, inBuffers s.params a → (s.mem.byteAt a).isSome = true

/-- The block's invariant: what holds after reset and after every step. -/
structure Inv (s : State) : Prop where
  params_valid : s.params.Valid
  foreground : ForegroundInv s
  dispatcher : DispatcherInv s
  runState : RunStateInv s
  stream : StreamInv s
  engine : EngineInv s
  memory : MemoryInv s

/-! ### What control may not depend on -/

/-- A move without the sample word it draws. -/
def forgetMove : Move → Move
  | .dmaRx _ => .dmaRx 0
  | .cbWrite i _ => .cbWrite i 0
  | m => m

/-- A state without its sample words: which bytes are written stays, what they hold does not (R6). -/
def State.forgetSamples (s : State) : State :=
  { s with
    mem := s.mem.map (fun c => (c.1, 0))
    txTrace := s.txTrace.map (fun _ => 0)
    rxTrace := s.rxTrace.map (fun _ => 0)
    inputs := s.inputs.map forgetMove }

/-- An outcome without the sample words of its state. -/
def forgetOutcome : Outcome → Outcome
  | .next s => .next s.forgetSamples
  | .fault f => .fault f
  | .refused r => .refused r

/-! ### Prompt streaming -/

/-- A stream that has just started: no item moved, no cause pending, nothing active (the end of R134). -/
structure JustStarted (s : State) : Prop where
  inv : Inv s
  running : s.runState = .running
  normal : s.recState = .normal
  idle : s.dispPhase = .idle
  no_items : s.rxProgress = 0 ∧ s.txProgress = 0 ∧ s.lastProgress = 0
  no_causes : s.rxFlags = ⟨false, false, false, false⟩

/-- One block received and served at once by a callback that touches nothing (R178 (1)). -/
def promptBlock (ws : List Item) : List Move := ws.map Move.dmaRx ++ [.dispEntry, .dispExit]

/-- The copy callback on item `i`: `cb read i`, then `cb write i` with the word that this read obtains (R168, R178 (3)). -/
def copyItem (i : Nat) (s : State) : Outcome :=
  match cbReadValue i s with
  | .ok w => runMoves [.cbRead i, .cbWrite i w] s
  | .error f => .fault f

/-- One block received while one is sent, an item out and an item in by turns, a schedule of `LOCKSTEP(1)` (R147), and
served at once by the copy callback (R178 (3)). -/
def runCopyBlock (ws : List Item) (s : State) : Outcome :=
  andThen (runMoves (ws.flatMap (fun w => [.dmaTx, .dmaRx w]) ++ [.dispEntry]) s) fun t =>
    andThen (runEach copyItem (List.range t.params.blockItemsRx) t) (runMoves [.dispExit])

/-- The half of the `n`-th event after `start`, counted from 0 (R142, R178 (2)). -/
def eventHalf (n : Nat) : Half := if n % 2 = 0 then 0 else 1

/-! ### Willing environments -/

/-- A codec sequence run by FG, every phase acknowledged. -/
def fgCodecAcked (seq : List (Byte × Byte)) : List Move :=
  seq.flatMap (fun _ => (List.replicate 5 (fgAcked 0)).flatten)

/-- A codec sequence run by DISP, every phase acknowledged. -/
def dispCodecAcked (seq : List (Byte × Byte)) : List Move :=
  seq.flatMap (fun _ => (List.replicate 5 dispAcked).flatten)

/-- The control-bus symbols of a codec sequence (R121). -/
def codecFrames (p : Params) (seq : List (Byte × Byte)) : List BusSymbol :=
  seq.flatMap (fun e => writeFrame p p.codecAddr e.1 e.2)

/-- What follows the acceptance of SETUP when the PLL locks and the codec acknowledges; `first` says whether the buffers
are still to be zeroed (R130). -/
def willingSetup (p : Params) (first : Bool) : List Move :=
  [.pllLock, .fg, .fg] ++ fgCodecAcked p.cstartSeq ++ (if first then [.fg, .fg, .fg] else [.fg, .fg])

/-- The recovery sequence after DISP's entry step when the codec acknowledges, the PLL locks and the word-select line
changes (R184 to R187). -/
def willingRecovery (p : Params) : List Move :=
  dispCodecAcked p.cfeSeq ++ [.disp] ++ [.disp, .pllLock, .disp, .disp] ++ dispCodecAcked p.cstartSeq
    ++ [.disp, .disp] ++ [.disp, .wsToggle, .disp]

end Sys2Proof.Machine
end

