-- ==== Sys2Proof/Certificates/Slice0/Obligations.lean ====
section
/-! DEFINITION. The statements for the provers. Each docstring names the rules of spec/ it formalises; a clause that is
the model's own choice names its log entry. -/

open Sys2Proof Sys2Proof.Machine

/-! ### Encoding -/

/-- Every instruction with every operand value is what its encoding decodes to (R81, R92). -/
def Obligations.DecodeOfEncode : Prop := ∀ i : Instr, decode (encode i) = .ok i

/-- A word that decodes is the encoding of what it decodes to: no bit of a legal word is dropped (R81, R92, R94). -/
def Obligations.EncodeOfDecode : Prop := ∀ (w : Word32) (i : Instr), decode w = .ok i → encode i = w

/-- The decoder rejects, by the reason's name, exactly the words of R93 and of R94. -/
def Obligations.DecodeRejectsIllegalWords : Prop :=
  ∀ w : Word32,
    (decode w = .error .reservedOpcode ↔ w.toNat / 2 ^ 28 = 0 ∨ 9 ≤ w.toNat / 2 ^ 28)
      ∧ (decode w = .error .mustBeZero ↔
          (1 ≤ w.toNat / 2 ^ 28 ∧ w.toNat / 2 ^ 28 ≤ 8) ∧ ∀ r ∈ OpcodeRow.table, w &&& r.mask ≠ r.pattern)

/-- No word selects two rows of the opcode map, and a word selects a row exactly when the decoder accepts it, the row
being the decoded instruction's (R92). -/
def Obligations.OpcodeRowsDisjoint : Prop :=
  ∀ w : Word32,
    (∀ a ∈ OpcodeRow.table, ∀ b ∈ OpcodeRow.table,
        w &&& a.mask = a.pattern → w &&& b.mask = b.pattern → a = b)
      ∧ ((∃ r ∈ OpcodeRow.table, w &&& r.mask = r.pattern) ↔ ∃ i, decode w = .ok i)
      ∧ ∀ i, decode w = .ok i → i.row ∈ OpcodeRow.table ∧ w &&& i.row.mask = i.row.pattern

/-- Words written out from the encoding tables decode to the instructions they stand for, one of each operation, and two
illegal words do not decode (R81, R92 to R94, V30). -/
def Obligations.WrittenWordsDecode : Prop :=
  decode 0x1000AC44 = .ok (.setup 44100) ∧ decode 0x20000000 = .ok .start ∧ decode 0x30000000 = .ok .disable
    ∧ decode 0x401A0742 = .ok (.writeRegister 0x1A 0x07 0x42) ∧ decode 0x501A0700 = .ok (.readRegister 0x1A 0x07)
    ∧ decode 0x60000001 = .ok (.getProperty 1) ∧ decode 0x7000000B = .ok (.getStatus 11)
    ∧ decode 0x80000000 = .ok .clearUnderrun
    ∧ decode 0x20000001 = .error .mustBeZero ∧ decode 0x00000000 = .error .reservedOpcode

/-- The textual form: how each mnemonic and each selector's name is written, each command's words, the number of every
selector, and no words for an operand out of range or for operands of another number or kind (R97, R98, R202, R204). -/
def Obligations.TextCommandsAssemble : Prop :=
  (∀ r < 2 ^ 24,
      (TextCommand.assemble ⟨.setup, [.num r]⟩).map (·.map encode) = some [BitVec.ofNat 32 (0x10000000 + r)]
        ∧ (TextCommand.assemble ⟨.audioHwSetup, [.num r]⟩).map (·.map encode)
            = some [BitVec.ofNat 32 (0x10000000 + r)]
        ∧ (TextCommand.assemble ⟨.restart, [.num r]⟩).map (·.map encode)
            = some [0x30000000, BitVec.ofNat 32 (0x10000000 + r), 0x20000000])
    ∧ (TextCommand.assemble ⟨.start, []⟩).map (·.map encode) = some [0x20000000]
    ∧ (TextCommand.assemble ⟨.disable, []⟩).map (·.map encode) = some [0x30000000]
    ∧ (TextCommand.assemble ⟨.clearUnderrun, []⟩).map (·.map encode) = some [0x80000000]
    ∧ (∀ d < 2 ^ 7, ∀ r < 2 ^ 8,
        (TextCommand.assemble ⟨.readRegister, [.num d, .num r]⟩).map (·.map encode)
            = some [BitVec.ofNat 32 (0x50000000 + d * 2 ^ 16 + r * 2 ^ 8)]
          ∧ ∀ v < 2 ^ 8, (TextCommand.assemble ⟨.writeRegister, [.num d, .num r, .num v]⟩).map (·.map encode)
              = some [BitVec.ofNat 32 (0x40000000 + d * 2 ^ 16 + r * 2 ^ 8 + v)])
    ∧ (∀ s < 4, (TextCommand.assemble ⟨.getProperty, [.num s]⟩).map (·.map encode)
        = some [BitVec.ofNat 32 (0x60000000 + s)])
    ∧ (∀ s < 16, (TextCommand.assemble ⟨.getStatus, [.num s]⟩).map (·.map encode)
        = some [BitVec.ofNat 32 (0x70000000 + s)])
    ∧ (∀ e ∈ mnemonicTexts, e.1.spelling = e.2) ∧ (∀ m : TextMnemonic, m ∈ mnemonicTexts.map (·.1))
    ∧ (∀ e ∈ propertyNumbers, e.1.spelling = e.2.2 ∧ PropertyName.ofSelector (BitVec.ofNat 2 e.2.1) = e.1
        ∧ (TextCommand.assemble ⟨.getProperty, [.property e.1]⟩).map (·.map encode)
          = some [BitVec.ofNat 32 (0x60000000 + e.2.1)])
    ∧ (∀ p : PropertyName, p ∈ propertyNumbers.map (·.1))
    ∧ (∀ e ∈ statusNumbers, e.1.spelling = e.2.2 ∧ StatusName.ofSelector (BitVec.ofNat 4 e.2.1) = e.1
        ∧ (TextCommand.assemble ⟨.getStatus, [.status e.1]⟩).map (·.map encode)
          = some [BitVec.ofNat 32 (0x70000000 + e.2.1)])
    ∧ (∀ p : StatusName, p ∈ statusNumbers.map (·.1))
    ∧ (∀ i : Instr, i.text.assemble = some [i])
    ∧ (∀ r ≥ 2 ^ 24, TextCommand.assemble ⟨.setup, [.num r]⟩ = none
        ∧ TextCommand.assemble ⟨.audioHwSetup, [.num r]⟩ = none ∧ TextCommand.assemble ⟨.restart, [.num r]⟩ = none)
    ∧ (∀ d r v : Nat,
        (d ≥ 2 ^ 7 ∨ r ≥ 2 ^ 8 → TextCommand.assemble ⟨.readRegister, [.num d, .num r]⟩ = none)
          ∧ (d ≥ 2 ^ 7 ∨ r ≥ 2 ^ 8 ∨ v ≥ 2 ^ 8 →
              TextCommand.assemble ⟨.writeRegister, [.num d, .num r, .num v]⟩ = none))
    ∧ (∀ s ≥ 4, TextCommand.assemble ⟨.getProperty, [.num s]⟩ = none)
    ∧ (∀ s ≥ 16, TextCommand.assemble ⟨.getStatus, [.num s]⟩ = none)
    ∧ (∀ c : TextCommand, c.assemble.isSome = true →
        ((c.mnemonic = .setup ∨ c.mnemonic = .audioHwSetup ∨ c.mnemonic = .restart) ∧ ∃ r, c.operands = [.num r])
          ∨ ((c.mnemonic = .start ∨ c.mnemonic = .disable ∨ c.mnemonic = .clearUnderrun) ∧ c.operands = [])
          ∨ (c.mnemonic = .writeRegister ∧ ∃ d r v, c.operands = [.num d, .num r, .num v])
          ∨ (c.mnemonic = .readRegister ∧ ∃ d r, c.operands = [.num d, .num r])
          ∨ (c.mnemonic = .getProperty ∧ ((∃ s, c.operands = [.num s]) ∨ ∃ p, c.operands = [.property p]))
          ∨ (c.mnemonic = .getStatus ∧ ((∃ s, c.operands = [.num s]) ∨ ∃ p, c.operands = [.status p])))
    ∧ ∀ c : TextCommand, c.assemble.isSome = c.wellFormed

/-! ### One step of the machine -/

/-- When the next move presents a word, the block accepts commands and the word decodes, the step is the decoded
instruction's `exec` on the state with the word in `cmd` and the move consumed (R45, R80). -/
def Obligations.StepRunsDecodedCommand : Prop :=
  ∀ (s : State) (w : Word32) (i : Instr) (rest : List Move),
    s.inputs = .command w :: rest → acceptsCommand s = true → decode w = .ok i →
      step s = exec i { s with inputs := rest, cmd := w }

/-- An accepted illegal word completes at once with code 5 and `rsp_data = 0`, sets `last_error`, and changes nothing
else (R93, R94, R217). In every state that meets `Inv` and accepts commands, `fg_proc` is `none`. -/
def Obligations.IllegalCommandOnlyReports : Prop :=
  errCode .illegalCommand = 5 ∧
  ∀ (s : State) (w : Word32) (rest : List Move),
    s.inputs = .command w :: rest → acceptsCommand s = true → s.fgProc = none →
    (w.toNat / 2 ^ 28 = 0 ∨ 9 ≤ w.toNat / 2 ^ 28) ∨ (∀ r ∈ OpcodeRow.table, w &&& r.mask ≠ r.pattern) →
      step s = .next { s with
        inputs := rest, cmd := w, rspErr := .illegalCommand, rspData := 0, lastError := .illegalCommand }

/-- A command is accepted exactly when no operation is in progress, no handler is active and no line requests
(R45, R80, R229 (a)); one presented at another time gets no response and changes nothing, which is the model's choice
(entry 2). -/
def Obligations.UnacceptedCommandChangesNothing : Prop :=
  ∀ (s : State) (w : Word32) (rest : List Move),
    (acceptsCommand s = true ↔
        s.fgBusy = false ∧ s.dispPhase = .idle ∧ irqRx s = false ∧ irqTx s = false ∧ irqFe s = false)
      ∧ (s.inputs = .command w :: rest → acceptsCommand s = false → step s = .next { s with inputs := rest })

/-! ### SETUP -/

/-- SETUP with a supported rate outside `Running`: the clock parameters are applied, the PLL has to lock again, the
operation is in progress at its poll, and nothing else changes (R102, R106, R130). -/
def Obligations.SetupBegins : Prop :=
  ∀ (s : State) (rate : BitVec 24) (clk : ClockParams),
    RateClock s.params rate clk → s.runState ≠ .running →
      exec (.setup rate) s = .next { s with
        cfgClk := clk
        pllLocked := false
        fgBusy := true
        fgProc := some (.setup rate (.pll s.params.pllSpinLimit)) }

/-- SETUP with any other rate, in every run state: `UnsupportedRate`, and nothing but the response changes
(R101, R130, R131, R213, R218). -/
def Obligations.UnsupportedRateChangesNothing : Prop :=
  ∀ (s : State) (rate : BitVec 24), Unsupported rate →
    exec (.setup rate) s = .next { s with
      rspErr := .unsupportedRate, rspData := 0, lastError := .unsupportedRate, fgBusy := false, fgProc := none }

/-- SETUP when the PLL locks and the codec acknowledges: the whole end state. The buffers are zeroed by the first success
only (R106, R115, R121, R130 to R133). -/
def Obligations.SetupSucceeds : Prop :=
  ∀ (s : State) (rate : BitVec 24) (clk : ClockParams),
    Inv s → acceptsCommand s = true → s.runState ≠ .running → RateClock s.params rate clk →
      ∃ t, runMoves (.command (encode (.setup rate)) :: willingSetup s.params (!s.bufsInit)) s = .next t
        ∧ t = { s with
            cmd := encode (.setup rate)
            rspErr := .ok
            rspData := 0
            runState := .configured
            cfgValid := true
            cfgRate := rate
            cfgClk := clk
            pllLocked := true
            cbClkOn := true
            bufsInit := true
            rxEn := false
            txEn := false
            rxIrqEn := ⟨true, true, true, true⟩
            txIrqEn := ⟨true, true⟩
            rxFlags := ⟨false, false, false, false⟩
            txFlags := ⟨false, false⟩
            rxCfg := ⟨true, .p2m, 16, true, false, BitVec.ofNat 16 s.params.nRx, s.params.rxBurst⟩
            txCfg := ⟨true, .m2p, 16, true, false, BitVec.ofNat 16 s.params.nTx, s.params.txBurst⟩
            cbTrace := s.cbTrace ++ codecFrames s.params s.params.cstartSeq
            mem := t.mem }
        ∧ (s.bufsInit = true → t.mem = s.mem)
        ∧ (s.bufsInit = false →
            ∀ a, t.mem.byteAt a = if inBuffers s.params a then some 0 else s.mem.byteAt a)

/-- SETUP when the PLL never locks: `PLL_SPIN_LIMIT` poll steps, then `PllLockTimeout` and the configuration is invalid
(R103, R106, R130, R131, R215). -/
def Obligations.SetupPllLockTimeout : Prop :=
  ∀ (s : State) (rate : BitVec 24) (clk : ClockParams),
    acceptsCommand s = true → s.runState ≠ .running → RateClock s.params rate clk → 1 ≤ s.params.pllSpinLimit →
      runMoves (.command (encode (.setup rate)) :: List.replicate s.params.pllSpinLimit .fg) s = .next { s with
        cmd := encode (.setup rate)
        rspErr := .pllLockTimeout
        rspData := 0
        lastError := .pllLockTimeout
        runState := .uninitialized
        cfgValid := false
        cfgClk := clk
        pllLocked := false
        fgBusy := false
        fgProc := none }

/-- SETUP when the codec acknowledges the writes `pre` of `CSTART_SEQ` and then stalls: the first `BusTimeout` ends the
sequence, the rest is not sent, the configuration is invalid, the channels and the buffers are untouched
(R117, R121, R125, R130, R131). -/
def Obligations.SetupCodecTimeout : Prop :=
  ∀ (s : State) (rate : BitVec 24) (clk : ClockParams) (pre post : List (Byte × Byte)) (e : Byte × Byte),
    Inv s → acceptsCommand s = true → s.runState ≠ .running → RateClock s.params rate clk →
    s.params.cstartSeq = pre ++ e :: post →
      runMoves (.command (encode (.setup rate)) :: [.pllLock, .fg, .fg] ++ fgCodecAcked pre ++ fgStalled s.params) s
        = .next { s with
            cmd := encode (.setup rate)
            rspErr := .busTimeout
            rspData := 0
            lastError := .busTimeout
            runState := .uninitialized
            cfgValid := false
            cfgClk := clk
            pllLocked := true
            cbClkOn := true
            cbTrace := s.cbTrace ++ codecFrames s.params pre ++ [.s, .p] }

/-! ### START -/

/-- START in `Configured`: step A, whole; the operation is in progress at the word-select wait (R134). -/
def Obligations.StartArmsBothChannels : Prop :=
  ∀ s : State, s.runState = .configured →
    exec .start s = .next { s with
      clocksOn := true
      rxFlags := ⟨false, false, false, false⟩
      txFlags := ⟨false, false⟩
      rxNdtr := BitVec.ofNat 16 s.params.nRx
      txNdtr := BitVec.ofNat 16 s.params.nTx
      rxProgress := 0
      txProgress := 0
      lastProgress := 0
      readyHalf := 1
      rxEn := true
      txEn := true
      busEn := true
      fgBusy := true
      fgProc := some (.start s.wsLine s.params.spinLimit) }

/-- START when the word-select line changes before the poll step after `k` unsuccessful ones: the whole end state, with
step B in that poll step (R134, R135). -/
def Obligations.StartRunsOnTransition : Prop :=
  ∀ (s : State) (k : Nat), acceptsCommand s = true → s.runState = .configured → k < s.params.spinLimit →
    runMoves (.command 0x20000000 :: List.replicate k .fg ++ [.wsToggle, .fg]) s = .next { s with
      cmd := 0x20000000
      rspErr := .ok
      rspData := 0
      fgProc := none
      clocksOn := true
      rxFlags := ⟨false, false, false, false⟩
      txFlags := ⟨false, false⟩
      rxNdtr := BitVec.ofNat 16 s.params.nRx
      txNdtr := BitVec.ofNat 16 s.params.nTx
      rxProgress := 0
      txProgress := 0
      lastProgress := 0
      readyHalf := 1
      rxEn := true
      txEn := true
      busEn := true
      wsLine := !s.wsLine
      extRxEn := true
      rxLineEn := true
      txLineEn := true
      feLineEn := true
      runState := .running }

/-- START when the word-select line does not change: `SPIN_LIMIT` poll steps, then `do_disable` and `BusTimeout`
(R134, R136, R137, R214). -/
def Obligations.StartTimesOut : Prop :=
  ∀ s : State, acceptsCommand s = true → s.runState = .configured → 1 ≤ s.params.spinLimit →
    runMoves (.command 0x20000000 :: List.replicate s.params.spinLimit .fg) s = .next { s with
      cmd := 0x20000000
      rspErr := .busTimeout
      rspData := 0
      lastError := .busTimeout
      fgProc := none
      rxFlags := ⟨false, false, false, false⟩
      txFlags := ⟨false, false⟩
      rxNdtr := BitVec.ofNat 16 s.params.nRx
      txNdtr := BitVec.ofNat 16 s.params.nTx
      rxProgress := 0
      txProgress := 0
      lastProgress := 0
      readyHalf := 1
      clocksOn := false
      rxEn := false
      txEn := false
      busEn := false
      extRxEn := false
      rxLineEn := false
      txLineEn := false
      feLineEn := false
      feStatus := false
      recState := if s.recState = .frameErrorPending then .normal else s.recState
      runState := if s.cfgValid then .configured else .uninitialized }

/-! ### DISABLE -/

/-- DISABLE in every state: the whole end state, and a second DISABLE changes nothing more (R137, R138, R244). -/
def Obligations.DisableEndState : Prop :=
  ∀ s : State,
    ∃ t, exec .disable s = .next t ∧ exec .disable t = .next t
      ∧ t = { s with
          rxLineEn := false
          txLineEn := false
          feLineEn := false
          rxFlags := ⟨false, false, false, false⟩
          txFlags := ⟨false, false⟩
          feStatus := false
          recState := if s.recState = .frameErrorPending then .normal else s.recState
          busEn := false
          extRxEn := false
          rxEn := false
          txEn := false
          clocksOn := false
          runState := if s.cfgValid then .configured else .uninitialized
          rspErr := .ok
          rspData := 0
          fgBusy := false
          fgProc := none }

/-- After DISABLE and until another command, whatever the other agents do: no channel moves an item, no handler starts,
sample memory and the traces of the stream are stable (R76, R137, R262). -/
def Obligations.DisableStopsTheStream : Prop :=
  ∀ (s t : State) (ms : List Move),
    s.dispPhase = .idle → exec .disable s = .next t → (∀ m ∈ ms, ∀ w, m ≠ .command w) →
      ∃ u, runMoves ms t = .next u ∧ u.mem = t.mem ∧ u.rxTrace = t.rxTrace ∧ u.txTrace = t.txTrace
        ∧ u.callTrace = t.callTrace ∧ u.runState = t.runState ∧ u.recState = t.recState
        ∧ dmaRxEnabled u = false ∧ dmaTxEnabled u = false ∧ handlerToStart u = none ∧ u.dispPhase = .idle

/-! ### Register operations -/

/-- WRITE_REGISTER and READ_REGISTER with the control-bus clock on, outside `Running`: the transaction is in progress at
its first request, and nothing else changes (R115, R118 to R120, R126). -/
def Obligations.RegisterOpsBegin : Prop :=
  ∀ (s : State) (dev : BitVec 7) (reg val : BitVec 8), s.cbClkOn = true → s.runState ≠ .running →
    exec (.writeRegister dev reg val) s = .next { s with
        fgBusy := true, fgProc := some (.transaction ⟨.write dev reg val, .start, .request, 0⟩) }
      ∧ exec (.readRegister dev reg) s = .next { s with
        fgBusy := true, fgProc := some (.transaction ⟨.read dev reg, .start, .request, 0⟩) }

/-- WRITE_REGISTER when the device acknowledges each of the five phases, after fewer than `SPIN_LIMIT` poll steps: the
frame of R87 is on the bus, the operation succeeds, and nothing else changes (R113, R115, R116, R118). -/
def Obligations.WriteRegisterAcknowledged : Prop :=
  ∀ (s : State) (dev : BitVec 7) (reg val b : BitVec 8) (ks : List Nat),
    Inv s → acceptsCommand s = true → s.cbClkOn = true → s.runState ≠ .running →
    ks.length = 5 → (∀ k ∈ ks, k < s.params.spinLimit) →
      runMoves (.command (encode (.writeRegister dev reg val)) :: ackedPhases ks b) s = .next { s with
        cmd := encode (.writeRegister dev reg val)
        rspErr := .ok
        rspData := 0
        cbTrace := s.cbTrace ++ [.s, .tx (addrByte dev 0), .tx (frameByte s.params reg val), .tx val, .p] }

/-- READ_REGISTER when the device acknowledges each of the seven phases and returns `b`: the frame of R87 is on the bus
and the response is `b`, zero-extended (R90, R113, R114, R116, R119, R126). -/
def Obligations.ReadRegisterAcknowledged : Prop :=
  ∀ (s : State) (dev : BitVec 7) (reg b : BitVec 8) (ks : List Nat),
    Inv s → acceptsCommand s = true → s.cbClkOn = true → s.runState ≠ .running →
    ks.length = 7 → (∀ k ∈ ks, k < s.params.spinLimit) →
      runMoves (.command (encode (.readRegister dev reg)) :: ackedPhases ks b) s = .next { s with
        cmd := encode (.readRegister dev reg)
        rspErr := .ok
        rspData := b.setWidth 32
        cbRxByte := b
        cbTrace := s.cbTrace ++ [.s, .tx (addrByte dev 0), .tx (frameByte s.params reg 0), .sr,
          .tx (addrByte dev 1), .rxNack b, .p] }

/-- On the faithful bus simulator a write and then a read of the same register return the value written, if
`F(r, v) = F(r, 0)`. The simulator acknowledges before the first poll step of every phase, and it sees nothing but the
symbols put on the bus since the write began: it computes its map and the byte it returns from them. Both frames are on
the bus whole (R115, R123, R126, with the address byte's form of entry 18). -/
def Obligations.RegisterRoundTrip : Prop :=
  ∀ (s : State) (dev : BitVec 7) (reg val other : BitVec 8) (cell : Byte → Byte),
    Inv s → acceptsCommand s = true → s.cbClkOn = true → s.runState ≠ .running →
    frameByte s.params reg val = frameByte s.params reg 0 →
      ∃ t r u, runMoves (.command (encode (.writeRegister dev reg val)) :: (List.replicate 5 (fgAcked 0)).flatten) s
            = .next t
        ∧ t.rspErr = .ok
        ∧ t.cbTrace = s.cbTrace ++ writeFrame s.params dev reg val
        ∧ runMoves (.command (encode (.readRegister dev reg)) :: (List.replicate 5 (fgAcked 0)).flatten ++ [.fg]) t
            = .next r
        ∧ r.cbWait = some .rxd
        ∧ runMoves (.cbAck (simByte dev cell other (r.cbTrace.drop s.cbTrace.length)) :: .fg :: fgAcked 0) r = .next u
        ∧ u.cbTrace = t.cbTrace ++ readFrame s.params dev reg val
        ∧ u.rspErr = .ok ∧ u.rspData = val.setWidth 32

/-- On a bus that never acknowledges, a register operation is still in progress after fewer than `SPIN_LIMIT` poll steps
and completes with `BusTimeout` after exactly that many, the bus trace being `S, P` (R117, R124). -/
def Obligations.StalledBusTimesOut : Prop :=
  ∀ (s : State) (i : Instr), Inv s → acceptsCommand s = true → s.cbClkOn = true → s.runState ≠ .running →
    (∃ dev reg val, i = .writeRegister dev reg val) ∨ (∃ dev reg, i = .readRegister dev reg) →
      (∀ n < s.params.spinLimit, ∃ t, runMoves (.command (encode i) :: .fg :: List.replicate n .fg) s = .next t
          ∧ t.fgBusy = true ∧ t.cbTrace = s.cbTrace ++ [.s])
        ∧ runMoves (.command (encode i) :: .fg :: List.replicate s.params.spinLimit .fg) s = .next { s with
            cmd := encode i
            rspErr := .busTimeout
            rspData := 0
            lastError := .busTimeout
            cbTrace := s.cbTrace ++ [.s, .p] }

/-- A register operation whose phase number `ks.length` is never acknowledged: `BusTimeout`, and on the bus the frame's
prefix up to that phase, then one stop condition unless it was the stop phase (R87, R115, R117, R126). -/
def Obligations.StallAtAnyPhase : Prop :=
  ∀ (s : State) (dev : BitVec 7) (reg val b : BitVec 8) (ks : List Nat),
    Inv s → acceptsCommand s = true → s.cbClkOn = true → s.runState ≠ .running →
    (∀ k ∈ ks, k < s.params.spinLimit) →
      (ks.length < 5 →
        runMoves (.command (encode (.writeRegister dev reg val)) :: ackedPhases ks b ++ fgStalled s.params) s
          = .next { s with
              cmd := encode (.writeRegister dev reg val)
              rspErr := .busTimeout
              rspData := 0
              lastError := .busTimeout
              cbTrace := s.cbTrace ++ (writeFrame s.params dev reg val).take (ks.length + 1)
                ++ (if ks.length = 4 then [] else [.p]) })
      ∧ (ks.length < 7 →
        runMoves (.command (encode (.readRegister dev reg)) :: ackedPhases ks b ++ fgStalled s.params) s
          = .next { s with
              cmd := encode (.readRegister dev reg)
              rspErr := .busTimeout
              rspData := 0
              lastError := .busTimeout
              cbRxByte := if ks.length = 6 then b else s.cbRxByte
              cbTrace := s.cbTrace
                ++ (if ks.length = 6 then readFrame s.params dev reg b
                    else (readFrame s.params dev reg b).take (min (ks.length + 1) 5) ++ [.p]) })

/-! ### Refusals by state, and queries -/

/-- `InvalidState` is raised at once with no state change by the operations and under the conditions of R216, and DISABLE,
GET_STATUS and CLEAR_UNDERRUN never raise it (R216, with the order of R218 for SETUP). -/
def Obligations.InvalidStateRaised : Prop :=
  ∀ (s : State) (i : Instr),
    (((∃ rate, i = .setup rate ∧ ¬Unsupported rate) ∧ s.runState = .running)
        ∨ (i = .start ∧ s.runState ≠ .configured)
        ∨ (((∃ dev reg val, i = .writeRegister dev reg val) ∨ ∃ dev reg, i = .readRegister dev reg)
            ∧ (s.cbClkOn = false ∨ s.runState = .running))
        ∨ ((∃ sel, i = .getProperty sel) ∧ s.cfgValid = false) →
      exec i s = .next { s with
        rspErr := .invalidState, rspData := 0, lastError := .invalidState, fgBusy := false, fgProc := none })
      ∧ (i = .disable ∨ (∃ sel, i = .getStatus sel) ∨ i = .clearUnderrun →
        ∃ t, exec i s = .next t ∧ t.rspErr = .ok)

/-- GET_PROPERTY with a valid configuration answers the property's value and changes nothing but the response
(R201, R202). -/
def Obligations.GetPropertyValues : Prop :=
  ∀ (s : State) (sel : BitVec 2), s.cfgValid = true →
    exec (.getProperty sel) s = .next { s with
      rspErr := .ok
      rspData :=
        if sel = 0 then s.cfgRate.setWidth 32 else if sel = 1 then BitVec.ofNat 32 s.params.blockFrames else 2
      fgBusy := false
      fgProc := none }

/-- GET_STATUS in every state completes and changes nothing but the response; the values of the selectors that are one
number (R203, R204). -/
def Obligations.GetStatusNumbers : Prop :=
  ∀ s : State,
    ∀ e ∈ [((0 : BitVec 4), (match s.runState with
          | .uninitialized => 0 | .configured => 1 | .running => 2 | .faulted => 3 : Word32)),
        (1, match s.recState with | .normal => 0 | .frameErrorPending => 1 | .recovering => 2),
        (3, s.underrunCount), (4, s.teCount), (5, s.dmeCount), (6, s.recoveryCount), (7, s.callbackCount),
        (8, match s.lastError with
          | .ok => 0 | .unsupportedRate => 1 | .busTimeout => 2 | .pllLockTimeout => 3 | .invalidState => 4
          | .illegalCommand => 5),
        (9, s.rxNdtr.setWidth 32), (10, s.txNdtr.setWidth 32), (11, if s.readyHalf = 1 then 1 else 0),
        (15, s.recoveryFailCount)],
      exec (.getStatus e.1) s
        = .next { s with rspErr := .ok, rspData := e.2, fgBusy := false, fgProc := none }

/-- GET_STATUS: the values of the selectors made of bits, each listed bit in its place and every other bit zero
(R25, R26, R203, R204). -/
def Obligations.GetStatusBits : Prop :=
  ∀ s : State,
    ∀ e ∈ [((2 : BitVec 4), [decide (s.recState = .frameErrorPending), s.underrunFlag]),
        (12, [s.clocksOn, s.rxEn, s.txEn, s.busEn, s.extRxEn, s.cbClkOn, s.pllLocked, s.rxLineEn, s.txLineEn,
          s.feLineEn, s.bufsInit, s.cfgValid, s.feStatus]),
        (13, [s.rxFlags.ht, s.rxFlags.tc, s.rxFlags.te, s.rxFlags.dme,
          s.rxIrqEn.ht, s.rxIrqEn.tc, s.rxIrqEn.te, s.rxIrqEn.dme]),
        (14, [false, false, s.txFlags.te, s.txFlags.dme, false, false, s.txIrqEn.te, s.txIrqEn.dme])],
      ∃ d, exec (.getStatus e.1) s
            = .next { s with rspErr := .ok, rspData := d, fgBusy := false, fgProc := none }
        ∧ ∀ n, d.getLsbD n = e.2.getD n false

/-- What FG can read is constrained: with a line unmasked, the causes of that line read 0, and `rec_state` never reads 2
(R29, R204, R229 (a)). -/
def Obligations.GetStatusConstrained : Prop :=
  ∀ (s t : State), Inv s → acceptsCommand s = true →
    (s.rxLineEn = true → exec (.getStatus 13) s = .next t → ∀ n < 4, t.rspData.getLsbD n = false)
      ∧ (s.txLineEn = true → exec (.getStatus 14) s = .next t →
          t.rspData.getLsbD 2 = false ∧ t.rspData.getLsbD 3 = false)
      ∧ (s.feLineEn = true → exec (.getStatus 12) s = .next t → t.rspData.getLsbD 12 = false)
      ∧ (exec (.getStatus 1) s = .next t → t.rspData = 0 ∨ t.rspData = 1)

/-- CLEAR_UNDERRUN answers the flag's value before clearing and clears it; a second one answers 0 (R205). -/
def Obligations.ClearUnderrunReadsAndClears : Prop :=
  ∀ s : State,
    ∃ t, exec .clearUnderrun s = .next t
      ∧ t = { s with
          rspErr := .ok
          rspData := if s.underrunFlag then 1 else 0
          underrunFlag := false
          fgBusy := false
          fgProc := none }
      ∧ exec .clearUnderrun t = .next { t with rspData := 0 }

/-! ### Reset -/

/-- What reset leaves in the elements the spec gives a value (R241). -/
def Obligations.ResetValues : Prop :=
  ∀ (p : Params) (s : State), s = State.resetWith p ∨ s = State.reset →
    (s.runState = .uninitialized ∧ s.recState = .normal ∧ s.cfgValid = false ∧ s.bufsInit = false)
      ∧ (s.underrunFlag = false ∧ s.feStatus = false ∧ s.rxFlags = ⟨false, false, false, false⟩
          ∧ s.txFlags = ⟨false, false⟩ ∧ s.cbSr = 0)
      ∧ (s.clocksOn = false ∧ s.cbClkOn = false ∧ s.pllLocked = false ∧ s.busEn = false ∧ s.extRxEn = false
          ∧ s.rxEn = false ∧ s.txEn = false ∧ s.rxIrqEn = ⟨false, false, false, false⟩
          ∧ s.txIrqEn = ⟨false, false⟩ ∧ s.rxLineEn = false ∧ s.txLineEn = false ∧ s.feLineEn = false)
      ∧ (s.underrunCount = 0 ∧ s.teCount = 0 ∧ s.dmeCount = 0 ∧ s.recoveryCount = 0 ∧ s.recoveryFailCount = 0
          ∧ s.callbackCount = 0 ∧ s.lastError = .ok)
      ∧ (s.rxNdtr = 0 ∧ s.txNdtr = 0 ∧ s.rxProgress = 0 ∧ s.txProgress = 0 ∧ s.lastProgress = 0)
      ∧ (s.fgBusy = false ∧ s.dispPhase = .idle ∧ s.dispBlock = false ∧ s.dispHalf = 0 ∧ s.cbWait = none
          ∧ s.readyHalf = 1)
      ∧ (s.rspErr = .ok ∧ s.rspData = 0)
      ∧ (s.cbTrace = [] ∧ s.txTrace = [] ∧ s.rxTrace = [] ∧ s.callTrace = [])

/-- Each host operation straight after reset (R245); the success of SETUP is `SetupSucceeds`. -/
def Obligations.OperationsAfterReset : Prop :=
  ∀ (p : Params) (s : State), s = State.resetWith p →
    (∀ rate clk, RateClock p rate clk → exec (.setup rate) s = .next { s with
        cfgClk := clk, pllLocked := false, fgBusy := true, fgProc := some (.setup rate (.pll p.pllSpinLimit)) })
      ∧ (∀ rate, Unsupported rate → exec (.setup rate) s
          = .next { s with rspErr := .unsupportedRate, lastError := .unsupportedRate })
      ∧ exec .disable s = .next s
      ∧ (∀ i : Instr, i = .start ∨ (∃ d r v, i = .writeRegister d r v) ∨ (∃ d r, i = .readRegister d r)
            ∨ (∃ sel, i = .getProperty sel) →
          exec i s = .next { s with rspErr := .invalidState, lastError := .invalidState })
      ∧ (∀ sel, exec (.getStatus sel) s = .next { s with rspData := if sel = 11 then 1 else 0 })
      ∧ exec .clearUnderrun s = .next s

/-- After reset no agent but FG and ENV has an enabled step, FG's being the acceptance of a command (R240, R243). -/
def Obligations.ResetEnablesOnlyForegroundAndEnvironment : Prop :=
  ∀ (p : Params) (m : Move),
    enabled m (State.resetWith p) = true ↔ (∃ w, m = .command w) ∨ m = .pllLock ∨ m = .wsToggle

/-- The invariant holds after reset, for all valid parameters. -/
def Obligations.ResetMeetsInvariant : Prop :=
  (∀ p : Params, p.Valid → Inv (State.resetWith p)) ∧ Inv State.reset

/-! ### What every step keeps -/

/-- The invariant is kept by every step from every state that meets it (R28 to R30, R49, R52, R110, R111, R182,
R229). -/
def Obligations.EveryStepKeepsInvariant : Prop :=
  ∀ s t : State, Inv s → step s = .next t → Inv t

/-- From every state that meets the invariant the machine goes on: no step faults and none is refused (R62, R211). -/
def Obligations.EveryStepAnswersNext : Prop := ∀ s : State, Inv s → ∃ t, step s = .next t

/-- Which steps change the two mode registers and the ownership bit, and how (R22, R28, R29, R180). -/
def Obligations.OnlyTheseStepsChangeModes : Prop :=
  ∀ (m : Move) (s t : State), Inv s → take m s = .next t →
    (t.recState ≠ s.recState →
        (m = .feh ∧ s.recState = .normal ∧ t.recState = .frameErrorPending)
          ∨ (m = .dispEntry ∧ s.recState = .frameErrorPending ∧ t.recState = .recovering)
          ∨ (m = .disp ∧ s.recState = .recovering ∧ t.recState = .normal)
          ∨ (m = .command 0x30000000 ∧ s.recState = .frameErrorPending ∧ t.recState = .normal))
      ∧ (t.runState ≠ s.runState →
          (m = .dispEntry ∧ s.runState = .running ∧ t.runState = .faulted)
            ∨ (m = .disp ∧ s.recState = .recovering)
            ∨ (m = .command 0x30000000 ∧ t.runState = if s.cfgValid then .configured else .uninitialized)
            ∨ (m = .fg ∧ s.runState = .configured ∧ t.runState = .running)
            ∨ (m = .fg ∧ s.runState ≠ .running ∧ (t.runState = .configured ∨ t.runState = .uninitialized)))
      ∧ (t.readyHalf ≠ s.readyHalf →
          m = .dispEntry ∨ ((m = .command 0x20000000 ∨ m = .disp) ∧ t.readyHalf = 1))

/-- The six event counters: each changes by one saturating increment at most, in interrupt context only, and only in the
steps that count its event (R43, R44, R46, R206, R237). -/
def Obligations.CountersOnlyCountEvents : Prop :=
  ∀ (m : Move) (s t : State), take m s = .next t →
    (t.underrunCount = s.underrunCount ∨ (m = .dispExit ∧ t.underrunCount = satInc s.underrunCount))
      ∧ (t.teCount = s.teCount ∨ ((m = .dispEntry ∨ m = .txh) ∧ t.teCount = satInc s.teCount))
      ∧ (t.dmeCount = s.dmeCount ∨ ((m = .dispEntry ∨ m = .txh) ∧ t.dmeCount = satInc s.dmeCount))
      ∧ (t.recoveryCount = s.recoveryCount ∨ (m = .disp ∧ t.recoveryCount = satInc s.recoveryCount))
      ∧ (t.recoveryFailCount = s.recoveryFailCount
          ∨ (m = .disp ∧ t.recoveryFailCount = satInc s.recoveryFailCount))
      ∧ (t.callbackCount = s.callbackCount
          ∨ ((m = .dispEntry ∨ m = .disp) ∧ t.callbackCount = satInc s.callbackCount))
      ∧ ∀ c : Word32, (satInc c).toNat = min (c.toNat + 1) (2 ^ 32 - 1)

/-- The Stream Configuration and the channel configurations do not change while `Running`, and the parameters never do
(R30, R58, R131, R260). -/
def Obligations.ConfigurationFixedWhileRunning : Prop :=
  ∀ (m : Move) (s t : State), Inv s → take m s = .next t →
    t.params = s.params
      ∧ (s.runState = .running →
          t.cfgValid = s.cfgValid ∧ t.cfgRate = s.cfgRate ∧ t.cfgClk = s.cfgClk ∧ t.rxCfg = s.rxCfg
            ∧ t.txCfg = s.txCfg ∧ t.rxIrqEn = s.rxIrqEn ∧ t.txIrqEn = s.txIrqEn ∧ t.bufsInit = s.bufsInit)

/-- A byte of sample memory changes only by a DMA_RX item, at its item's address, by the callback, at its item's address,
or by the first zeroing; no host command changes one (R70, R133, R141, R169, R206, R234). -/
def Obligations.OnlyTheseStepsWriteMemory : Prop :=
  ∀ (m : Move) (s t : State) (a : Nat), Inv s → take m s = .next t → t.mem.byteAt a ≠ s.mem.byteAt a →
    (∃ w, m = .dmaRx w ∧ (a = rxItemAddr s.params s.rxIdx ∨ a = rxItemAddr s.params s.rxIdx + 1))
      ∨ (∃ i w, m = .cbWrite i w ∧ s.dispPhase = .callback ∧ i < s.params.blockItemsTx
          ∧ (a = cbWriteAddr s i ∨ a = cbWriteAddr s i + 1))
      ∨ ((m = .fg ∨ m = .disp) ∧ s.bufsInit = false ∧ t.bufsInit = true ∧ inBuffers s.params a
          ∧ t.mem.byteAt a = some 0)

/-- Sample words are moved and never interpreted: erasing every sample word before a step or after it gives the same
outcome (R6, R151). -/
def Obligations.SampleWordsNeverSteer : Prop :=
  ∀ s : State, forgetOutcome (step s) = forgetOutcome (step s.forgetSamples)

/-! ### The DMA channels -/

/-- One DMA_RX item: the word goes to item `N_RX - rx_ndtr` of `RXBUF`, low byte first, every other byte of memory stays,
the count falls or reloads, and the two events fall where R141 says (R60, R141). The step is always possible. -/
def Obligations.ReceiveItemStep : Prop :=
  ∀ (s : State) (w : Item) (a : Nat), Inv s → dmaRxEnabled s = true →
    a = s.params.rxBase + 2 * (s.params.nRx - s.rxNdtr.toNat) →
      ∃ t, take (.dmaRx w) s = .next t
        ∧ t = { s with
            mem := t.mem
            rxTrace := s.rxTrace ++ [w]
            rxProgress := s.rxProgress + 1
            rxNdtr := if s.rxNdtr = 1 then BitVec.ofNat 16 s.params.nRx else s.rxNdtr - 1
            rxFlags := { s.rxFlags with
              ht := s.rxFlags.ht || decide (s.rxNdtr.toNat = s.params.nRx / 2 + 1)
              tc := s.rxFlags.tc || decide (s.rxNdtr = 1) } }
        ∧ t.mem.byteAt a = some (w.extractLsb' 0 8) ∧ t.mem.byteAt (a + 1) = some (w.extractLsb' 8 8)
        ∧ (∀ x, x ≠ a → x ≠ a + 1 → t.mem.byteAt x = s.mem.byteAt x)
        ∧ s.params.rxBase ≤ a ∧ a + 1 < s.params.rxBase + s.params.dbufBytesRx

/-- One DMA_TX item: item `N_TX - tx_ndtr` of `TXBUF` goes out, the count falls or reloads, and nothing else changes, no
flag among it (R26, R143). The step is always possible. -/
def Obligations.TransmitItemStep : Prop :=
  ∀ s : State, Inv s → dmaTxEnabled s = true →
    ∃ w, s.mem.itemAt (s.params.txBase + 2 * (s.params.nTx - s.txNdtr.toNat)) = some w
      ∧ take .dmaTx s = .next { s with
          txTrace := s.txTrace ++ [w]
          txProgress := s.txProgress + 1
          txNdtr := if s.txNdtr = 1 then BitVec.ofNat 16 s.params.nTx else s.txNdtr - 1 }

/-- Words received after `start` with nothing serviced: the events of R142 have fallen exactly when one block and when
two blocks have moved, the count is the residue of the progress, and the latest `N_RX` words stand in their items
(R52, R141, R142, R144, R175). -/
def Obligations.ReceiveRunFillsTheBuffer : Prop :=
  ∀ (s : State) (ws : List Item), JustStarted s →
    ∃ t, runMoves (ws.map .dmaRx) s = .next t
      ∧ t.rxFlags = ⟨decide (s.params.nRx / 2 ≤ ws.length), decide (s.params.nRx ≤ ws.length), false, false⟩
      ∧ t.rxProgress = ws.length ∧ t.rxNdtr.toNat = s.params.nRx - ws.length % s.params.nRx
      ∧ t.rxTrace = s.rxTrace ++ ws
      ∧ ∀ j, (h : j < ws.length) → ws.length ≤ j + s.params.nRx →
          t.mem.itemAt (s.params.rxBase + 2 * (j % s.params.nRx)) = some ws[j]

/-! ### The dispatcher and the handlers -/

/-- DISP's entry step with no frame error pending: the causes found set are cleared and counted, the half is latched, and
a callback is invoked exactly when a block event was found (R161 to R167, R171). -/
def Obligations.DispatcherEntry : Prop :=
  ∀ (s : State) (block : Bool) (half : Half),
    s.dispPhase = .idle → irqRx s = true → s.recState ≠ .frameErrorPending →
    block = (s.rxFlags.ht || s.rxFlags.tc) →
    half = (if s.rxFlags.ht then 0 else if s.rxFlags.tc then 1 else s.readyHalf) →
      take .dispEntry s = .next { s with
        rxFlags := ⟨false, false, false, false⟩
        teCount := if s.rxFlags.te then satInc s.teCount else s.teCount
        dmeCount := if s.rxFlags.dme then satInc s.dmeCount else s.dmeCount
        readyHalf := half
        dispHalf := half
        dispBlock := block
        callbackCount := if block then satInc s.callbackCount else s.callbackCount
        callTrace := if block then s.callTrace ++ [half] else s.callTrace
        dispPhase := if block then .callback else .idle
        dispProc := none }

/-- DISP's entry step with a frame error pending: the same handling of the causes, then the flag is consumed and the
recovery sequence begins, with no callback yet (R165, R166, R183). -/
def Obligations.PendingFrameErrorStartsRecovery : Prop :=
  ∀ (s : State) (half : Half),
    s.dispPhase = .idle → irqRx s = true → s.recState = .frameErrorPending →
    half = (if s.rxFlags.ht then 0 else if s.rxFlags.tc then 1 else s.readyHalf) →
      take .dispEntry s = .next { s with
        rxFlags := ⟨false, false, false, false⟩
        teCount := if s.rxFlags.te then satInc s.teCount else s.teCount
        dmeCount := if s.rxFlags.dme then satInc s.dmeCount else s.dmeCount
        readyHalf := half
        dispHalf := half
        dispBlock := s.rxFlags.ht || s.rxFlags.tc
        recState := .recovering
        runState := .faulted
        dispPhase := .recover
        dispProc := some (match s.params.cfeSeq with
          | [] => .teardown
          | e :: rest => .correct ⟨⟨.write s.params.codecAddr e.1 e.2, .start, .request, 0⟩, rest⟩) }

/-- DISP's exit step and the underrun test: an underrun exactly when more than `N_RX` items were received since the last
sample; it has no other effect (R172, R173, R179, R191). -/
def Obligations.DispatcherExit : Prop :=
  ∀ s : State, s.dispPhase = .callback →
    take .dispExit s = .next { s with
      lastProgress := s.rxProgress
      dispPhase := .idle
      dispProc := none
      underrunFlag := s.underrunFlag || decide (s.rxProgress - s.lastProgress > s.params.nRx)
      underrunCount :=
        if s.rxProgress - s.lastProgress > s.params.nRx then satInc s.underrunCount else s.underrunCount }

/-- The callback's accesses in its phase: exactly which reads and writes are its steps; a read gives the item of the
latched half and changes nothing; a write stores one item of the latched half, low byte first, and changes no other byte
(R62, R91, R168 to R170). That an access outside the half, which is no step, changes nothing when it is tried is the
model's choice (entries 2 and 9). -/
def Obligations.CallbackAccesses : Prop :=
  ∀ (s : State) (i : Nat) (w : Item), Inv s → s.dispPhase = .callback →
    callbackArgs s = ⟨s.params.rxBase + s.dispHalf.val * s.params.nRx, s.params.txBase + s.dispHalf.val * s.params.nTx,
        s.params.blockFrames, 2, 2⟩
      ∧ (i < s.params.blockItemsRx → take (.cbRead i) s = .next s
          ∧ ∃ v, s.mem.itemAt (s.params.rxBase + s.dispHalf.val * s.params.nRx + 2 * i) = some v
            ∧ cbReadValue i s = .ok v)
      ∧ (∀ a, a = s.params.txBase + s.dispHalf.val * s.params.nTx + 2 * i → i < s.params.blockItemsTx →
          ∃ t, take (.cbWrite i w) s = .next t ∧ t = { s with mem := t.mem }
            ∧ t.mem.byteAt a = some (w.extractLsb' 0 8) ∧ t.mem.byteAt (a + 1) = some (w.extractLsb' 8 8)
            ∧ ∀ x, x ≠ a → x ≠ a + 1 → t.mem.byteAt x = s.mem.byteAt x)
      ∧ (enabled (.cbRead i) s = true ↔ i < s.params.blockItemsRx)
      ∧ (enabled (.cbWrite i w) s = true ↔ i < s.params.blockItemsTx)
      ∧ (s.params.blockItemsRx ≤ i → enabled (.cbRead i) s = false ∧ take (.cbRead i) s = .next s)
      ∧ (s.params.blockItemsTx ≤ i → enabled (.cbWrite i w) s = false ∧ take (.cbWrite i w) s = .next s)

/-- TXH clears and counts the transmit channel's causes; FEH consumes the status bit and sets frame-error-pending; neither
does anything else (R177, R181). -/
def Obligations.ErrorHandlers : Prop :=
  ∀ s : State, s.dispPhase = .idle → irqRx s = false →
    (irqTx s = true →
        take .txh s = .next { s with
          txFlags := ⟨false, false⟩
          teCount := if s.txFlags.te then satInc s.teCount else s.teCount
          dmeCount := if s.txFlags.dme then satInc s.dmeCount else s.dmeCount })
      ∧ (irqTx s = false → irqFe s = true →
          take .feh s = .next { s with
            feStatus := false
            recState := if s.recState = .normal then .frameErrorPending else s.recState })

/-- The request lines of R38, and one processor: a handler starts only when none is active, in the order DISP, TXH, FEH; FG steps only when none is
active and none requests; a multi-step operation is never interrupted (R38, R222, R224, R228,
R229). -/
def Obligations.OneProcessor : Prop :=
  ∀ s : State,
    (irqRx s = true ↔ s.rxLineEn = true ∧ ((s.rxFlags.ht = true ∧ s.rxIrqEn.ht = true)
        ∨ (s.rxFlags.tc = true ∧ s.rxIrqEn.tc = true) ∨ (s.rxFlags.te = true ∧ s.rxIrqEn.te = true)
        ∨ (s.rxFlags.dme = true ∧ s.rxIrqEn.dme = true)))
      ∧ (irqTx s = true ↔ s.txLineEn = true ∧ ((s.txFlags.te = true ∧ s.txIrqEn.te = true)
        ∨ (s.txFlags.dme = true ∧ s.txIrqEn.dme = true)))
      ∧ (irqFe s = true ↔ s.feLineEn = true ∧ s.feStatus = true)
      ∧ (enabled .dispEntry s = true ↔ s.dispPhase = .idle ∧ irqRx s = true)
      ∧ (enabled .txh s = true ↔ s.dispPhase = .idle ∧ irqRx s = false ∧ irqTx s = true)
      ∧ (enabled .feh s = true ↔ s.dispPhase = .idle ∧ irqRx s = false ∧ irqTx s = false ∧ irqFe s = true)
      ∧ (enabled .disp s = true ↔ s.dispPhase = .recover)
      ∧ (enabled .dispExit s = true ↔ s.dispPhase = .callback)
      ∧ (enabled .fg s = true ↔ s.fgBusy = true ∧ s.dispPhase = .idle ∧ irqRx s = false ∧ irqTx s = false
          ∧ irqFe s = false)
      ∧ (Inv s → s.fgBusy = true → enabled .fg s = true ∧ handlerToStart s = none)

/-- In a prompt run, each block served by a callback before the next arrives: one callback a block, the halves 0, 1, 0,
1, …, no underrun and no recovery (R142, R152 (3), R174, R178 (1) and (2)). -/
def Obligations.PromptRunAlternatesHalves : Prop :=
  ∀ (s : State) (blocks : List (List Item)),
    JustStarted s → (∀ ws ∈ blocks, ws.length = s.params.blockItemsRx) →
      ∃ t, runMoves (blocks.flatMap promptBlock) s = .next t
        ∧ t.callTrace = s.callTrace ++ (List.range blocks.length).map eventHalf
        ∧ t.callbackCount = satInc^[blocks.length] s.callbackCount
        ∧ t.underrunFlag = s.underrunFlag ∧ t.underrunCount = s.underrunCount
        ∧ t.recoveryCount = s.recoveryCount ∧ t.recoveryFailCount = s.recoveryFailCount
        ∧ t.runState = .running ∧ t.rxTrace = s.rxTrace ++ blocks.flatten

/-- The copy callback, which writes each item with the word it read, in the lockstep schedule that sends an item and
receives one by turns: from zeroed transmit memory, what is sent is what is received, `N_TX` items later
(R147, R168, R169, R178 (3)). -/
def Obligations.CopyRunDelaysByTwoBlocks : Prop :=
  ∀ (s : State) (blocks : List (List Item)),
    JustStarted s → (∀ ws ∈ blocks, ws.length = s.params.blockItemsRx) →
    (∀ i < s.params.nTx, s.mem.itemAt (s.params.txBase + 2 * i) = some 0) →
      ∃ t, runEach runCopyBlock blocks s = .next t
        ∧ t.rxTrace = s.rxTrace ++ blocks.flatten
        ∧ t.txTrace = s.txTrace
            ++ (List.replicate s.params.nTx 0 ++ blocks.flatten).take (blocks.length * s.params.blockItemsTx)

/-! ### The environment -/

/-- The environment's steps on the clocks and the audio bus: exactly when each is enabled, and its whole effect then
(R104, R148 to R150). That one of them taken when it is not enabled changes nothing is the model's choice (entry 2). -/
def Obligations.EnvironmentSteps : Prop :=
  ∀ s : State,
    (enabled .pllLock s = true ↔ s.pllLocked = false)
      ∧ enabled .wsToggle s = true
      ∧ (enabled .frameError s = true ↔ s.extRxEn = true ∧ s.feStatus = false)
      ∧ (∀ kind, enabled (.dmaError .rx kind) s = true ↔ s.rxEn = true ∧ s.clocksOn = true)
      ∧ (∀ kind, enabled (.dmaError .tx kind) s = true ↔ s.txEn = true ∧ s.clocksOn = true)
      ∧ (s.pllLocked = false → take .pllLock s = .next { s with pllLocked := true })
      ∧ take .wsToggle s = .next { s with wsLine := !s.wsLine }
      ∧ (s.extRxEn = true → s.feStatus = false → take .frameError s = .next { s with feStatus := true })
      ∧ (s.rxEn = true → s.clocksOn = true →
          take (.dmaError .rx .te) s = .next { s with rxFlags := { s.rxFlags with te := true } }
            ∧ take (.dmaError .rx .dme) s = .next { s with rxFlags := { s.rxFlags with dme := true } })
      ∧ (s.txEn = true → s.clocksOn = true →
          take (.dmaError .tx .te) s = .next { s with txFlags := { s.txFlags with te := true } }
            ∧ take (.dmaError .tx .dme) s = .next { s with txFlags := { s.txFlags with dme := true } })
      ∧ ∀ m, (m = .pllLock ∨ m = .frameError ∨ ∃ ch kind, m = .dmaError ch kind) → enabled m s = false →
          take m s = .next s

/-- The control-bus acknowledge: it is a step exactly while a phase is waited for and its flag is 0, it sets that flag and
no other, and it stores the device's byte in a reception only (R39, R116). That it changes nothing when it is tried while
it is no step is the model's choice (entry 2). -/
def Obligations.ControlBusAcknowledge : Prop :=
  ∀ (s : State) (b : Byte),
    (enabled (.cbAck b) s = true ↔ ∃ x, s.cbWait = some x ∧ cbFlag s.cbSr x = false)
      ∧ (s.cbWait = none → take (.cbAck b) s = .next s)
      ∧ ∀ x, s.cbWait = some x →
          (cbFlag s.cbSr x = true → take (.cbAck b) s = .next s)
            ∧ (cbFlag s.cbSr x = false → ∃ sr, take (.cbAck b) s
                = .next { s with cbSr := sr, cbRxByte := if x = .rxd then b else s.cbRxByte }
              ∧ ∀ n < 5, sr.getLsbD n = (s.cbSr.getLsbD n || decide (n = (match x with
                  | .start => 0 | .addr => 1 | .txd => 2 | .rxd => 3 | .stop => 4))))

/-! ### Recovery -/

/-- A pending frame error when the codec acknowledges, the PLL locks and the word-select line changes: from DISP's entry
to the end of the sequence, the whole end state, with the owed callback if a block event was found
(R183 to R188, R190, R192). -/
def Obligations.FrameErrorRecovers : Prop :=
  ∀ (s : State) (half : Half) (block : Bool) (clk : ClockParams),
    Inv s → s.dispPhase = .idle → irqRx s = true → s.recState = .frameErrorPending →
    block = (s.rxFlags.ht || s.rxFlags.tc) →
    half = (if s.rxFlags.ht then 0 else if s.rxFlags.tc then 1 else s.readyHalf) →
    RateClock s.params s.cfgRate clk →
      runMoves (.dispEntry :: willingRecovery s.params) s = .next { s with
        teCount := if s.rxFlags.te then satInc s.teCount else s.teCount
        dmeCount := if s.rxFlags.dme then satInc s.dmeCount else s.dmeCount
        dispHalf := half
        dispBlock := block
        cbTrace := s.cbTrace ++ codecFrames s.params s.params.cfeSeq ++ codecFrames s.params s.params.cstartSeq
        cfgClk := clk
        pllLocked := true
        cbClkOn := true
        rxCfg := ⟨true, .p2m, 16, true, false, BitVec.ofNat 16 s.params.nRx, s.params.rxBurst⟩
        txCfg := ⟨true, .m2p, 16, true, false, BitVec.ofNat 16 s.params.nTx, s.params.txBurst⟩
        rxFlags := ⟨false, false, false, false⟩
        txFlags := ⟨false, false⟩
        feStatus := false
        rxNdtr := BitVec.ofNat 16 s.params.nRx
        txNdtr := BitVec.ofNat 16 s.params.nTx
        rxProgress := 0
        txProgress := 0
        lastProgress := 0
        readyHalf := 1
        wsLine := !s.wsLine
        runState := .running
        recState := .normal
        recoveryCount := satInc s.recoveryCount
        callbackCount := if block then satInc s.callbackCount else s.callbackCount
        callTrace := if block then s.callTrace ++ [half] else s.callTrace
        dispPhase := if block then .callback else .idle }

/-- A recovery whose PLL never locks: `PLL_SPIN_LIMIT` poll steps, then the failure path; the block is quiescent in
`Faulted`, the failure is recorded, and no callback is made (R185, R186, R189, R215). -/
def Obligations.RecoveryPllLockTimeout : Prop :=
  ∀ s : State, Inv s → s.dispPhase = .idle → irqRx s = true → s.recState = .frameErrorPending →
    ∃ t, runMoves (.dispEntry :: dispCodecAcked s.params.cfeSeq
          ++ [.disp, .disp] ++ List.replicate s.params.pllSpinLimit .disp ++ [.disp]) s = .next t
      ∧ t.runState = .faulted ∧ t.recState = .normal ∧ t.dispPhase = .idle
      ∧ t.lastError = .pllLockTimeout ∧ t.rspErr = s.rspErr ∧ t.rspData = s.rspData
      ∧ t.recoveryFailCount = satInc s.recoveryFailCount ∧ t.recoveryCount = s.recoveryCount
      ∧ t.callTrace = s.callTrace ∧ t.callbackCount = s.callbackCount
      ∧ t.cfgValid = false ∧ t.cbClkOn = false ∧ t.mem = s.mem
      ∧ (t.clocksOn = false ∧ t.rxEn = false ∧ t.txEn = false ∧ t.busEn = false ∧ t.extRxEn = false)
      ∧ (t.rxLineEn = false ∧ t.txLineEn = false ∧ t.feLineEn = false)

/-- The failure path of recovery, one atomic step (R189). -/
def Obligations.RecoveryFailureStep : Prop :=
  ∀ (s : State) (e : ErrCode), s.dispPhase = .recover → s.dispProc = some (.fail e) → s.recState = .recovering →
    take .disp s = .next { s with
      rxLineEn := false
      txLineEn := false
      feLineEn := false
      rxFlags := ⟨false, false, false, false⟩
      txFlags := ⟨false, false⟩
      feStatus := false
      busEn := false
      extRxEn := false
      rxEn := false
      txEn := false
      clocksOn := false
      runState := .faulted
      recState := .normal
      lastError := e
      recoveryFailCount := satInc s.recoveryFailCount
      dispPhase := .idle
      dispProc := none }

/-! ### Progress -/

/-- Every step of a multi-step host operation, and every step of the recovery sequence, ends it or leaves it strictly less
work, so each takes at most `fgWork` or `recoveryWork` steps of its agent (R13, R125). -/
def Obligations.EveryProcedureStepShrinksItsWork : Prop :=
  ∀ s t : State,
    (∀ k, s.fgBusy = true → s.fgProc = some k → fgMayStep s = true → take .fg s = .next t →
        (t.fgBusy = false ∧ t.fgProc = none)
          ∨ (t.fgBusy = true ∧ ∃ k', t.fgProc = some k' ∧ fgWork t.params k' < fgWork s.params k))
      ∧ (∀ k, s.dispPhase = .recover → s.dispProc = some k → take .disp s = .next t →
        (t.dispPhase ≠ .recover ∧ t.dispProc = none)
          ∨ (t.dispPhase = .recover ∧ ∃ k', t.dispProc = some k'
              ∧ recoveryWork t.params k' < recoveryWork s.params k))

/-- Under weak fairness every host operation completes and every DISP invocation returns (R231). -/
def Obligations.FairRunsComplete : Prop :=
  ∀ (σ : Nat → Move) (r : Nat → State), IsRun σ r → WeaklyFair σ r → Inv (r 0) →
    ∀ n, (∃ m, n ≤ m ∧ (r m).fgBusy = false) ∧ ∃ m, n ≤ m ∧ (r m).dispPhase = .idle
end

