-- ==== Sys2Proof/Laws/State.lean ====
section
/-! SUPPORT. For every named group of writes, one lemma per field of State: what the field holds afterwards. A field the
group does not write holds what it held. -/

namespace Sys2Proof.Machine

@[simp] theorem succeed_params (d : Word32) (s : State) : (succeed d s).params = s.params := rfl
@[simp] theorem succeed_cmd (d : Word32) (s : State) : (succeed d s).cmd = s.cmd := rfl
@[simp] theorem succeed_rspErr (d : Word32) (s : State) : (succeed d s).rspErr = .ok := rfl
@[simp] theorem succeed_rspData (d : Word32) (s : State) : (succeed d s).rspData = d := rfl
@[simp] theorem succeed_fgBusy (d : Word32) (s : State) : (succeed d s).fgBusy = false := rfl
@[simp] theorem succeed_fgProc (d : Word32) (s : State) : (succeed d s).fgProc = none := rfl
@[simp] theorem succeed_runState (d : Word32) (s : State) : (succeed d s).runState = s.runState := rfl
@[simp] theorem succeed_recState (d : Word32) (s : State) : (succeed d s).recState = s.recState := rfl
@[simp] theorem succeed_readyHalf (d : Word32) (s : State) : (succeed d s).readyHalf = s.readyHalf := rfl
@[simp] theorem succeed_dispPhase (d : Word32) (s : State) : (succeed d s).dispPhase = s.dispPhase := rfl
@[simp] theorem succeed_dispBlock (d : Word32) (s : State) : (succeed d s).dispBlock = s.dispBlock := rfl
@[simp] theorem succeed_dispHalf (d : Word32) (s : State) : (succeed d s).dispHalf = s.dispHalf := rfl
@[simp] theorem succeed_dispProc (d : Word32) (s : State) : (succeed d s).dispProc = s.dispProc := rfl
@[simp] theorem succeed_rxFlags (d : Word32) (s : State) : (succeed d s).rxFlags = s.rxFlags := rfl
@[simp] theorem succeed_rxIrqEn (d : Word32) (s : State) : (succeed d s).rxIrqEn = s.rxIrqEn := rfl
@[simp] theorem succeed_rxEn (d : Word32) (s : State) : (succeed d s).rxEn = s.rxEn := rfl
@[simp] theorem succeed_rxNdtr (d : Word32) (s : State) : (succeed d s).rxNdtr = s.rxNdtr := rfl
@[simp] theorem succeed_rxCfg (d : Word32) (s : State) : (succeed d s).rxCfg = s.rxCfg := rfl
@[simp] theorem succeed_txFlags (d : Word32) (s : State) : (succeed d s).txFlags = s.txFlags := rfl
@[simp] theorem succeed_txIrqEn (d : Word32) (s : State) : (succeed d s).txIrqEn = s.txIrqEn := rfl
@[simp] theorem succeed_txEn (d : Word32) (s : State) : (succeed d s).txEn = s.txEn := rfl
@[simp] theorem succeed_txNdtr (d : Word32) (s : State) : (succeed d s).txNdtr = s.txNdtr := rfl
@[simp] theorem succeed_txCfg (d : Word32) (s : State) : (succeed d s).txCfg = s.txCfg := rfl
@[simp] theorem succeed_clocksOn (d : Word32) (s : State) : (succeed d s).clocksOn = s.clocksOn := rfl
@[simp] theorem succeed_cbClkOn (d : Word32) (s : State) : (succeed d s).cbClkOn = s.cbClkOn := rfl
@[simp] theorem succeed_pllLocked (d : Word32) (s : State) : (succeed d s).pllLocked = s.pllLocked := rfl
@[simp] theorem succeed_busEn (d : Word32) (s : State) : (succeed d s).busEn = s.busEn := rfl
@[simp] theorem succeed_extRxEn (d : Word32) (s : State) : (succeed d s).extRxEn = s.extRxEn := rfl
@[simp] theorem succeed_wsLine (d : Word32) (s : State) : (succeed d s).wsLine = s.wsLine := rfl
@[simp] theorem succeed_feStatus (d : Word32) (s : State) : (succeed d s).feStatus = s.feStatus := rfl
@[simp] theorem succeed_rxLineEn (d : Word32) (s : State) : (succeed d s).rxLineEn = s.rxLineEn := rfl
@[simp] theorem succeed_txLineEn (d : Word32) (s : State) : (succeed d s).txLineEn = s.txLineEn := rfl
@[simp] theorem succeed_feLineEn (d : Word32) (s : State) : (succeed d s).feLineEn = s.feLineEn := rfl
@[simp] theorem succeed_cfgValid (d : Word32) (s : State) : (succeed d s).cfgValid = s.cfgValid := rfl
@[simp] theorem succeed_cfgRate (d : Word32) (s : State) : (succeed d s).cfgRate = s.cfgRate := rfl
@[simp] theorem succeed_cfgClk (d : Word32) (s : State) : (succeed d s).cfgClk = s.cfgClk := rfl
@[simp] theorem succeed_bufsInit (d : Word32) (s : State) : (succeed d s).bufsInit = s.bufsInit := rfl
@[simp] theorem succeed_cbWait (d : Word32) (s : State) : (succeed d s).cbWait = s.cbWait := rfl
@[simp] theorem succeed_cbSr (d : Word32) (s : State) : (succeed d s).cbSr = s.cbSr := rfl
@[simp] theorem succeed_cbRxByte (d : Word32) (s : State) : (succeed d s).cbRxByte = s.cbRxByte := rfl
@[simp] theorem succeed_underrunFlag (d : Word32) (s : State) : (succeed d s).underrunFlag = s.underrunFlag := rfl
@[simp] theorem succeed_underrunCount (d : Word32) (s : State) : (succeed d s).underrunCount = s.underrunCount := rfl
@[simp] theorem succeed_teCount (d : Word32) (s : State) : (succeed d s).teCount = s.teCount := rfl
@[simp] theorem succeed_dmeCount (d : Word32) (s : State) : (succeed d s).dmeCount = s.dmeCount := rfl
@[simp] theorem succeed_recoveryCount (d : Word32) (s : State) : (succeed d s).recoveryCount = s.recoveryCount := rfl
@[simp] theorem succeed_recoveryFailCount (d : Word32) (s : State) :
    (succeed d s).recoveryFailCount = s.recoveryFailCount := rfl
@[simp] theorem succeed_callbackCount (d : Word32) (s : State) : (succeed d s).callbackCount = s.callbackCount := rfl
@[simp] theorem succeed_lastError (d : Word32) (s : State) : (succeed d s).lastError = s.lastError := rfl
@[simp] theorem succeed_rxProgress (d : Word32) (s : State) : (succeed d s).rxProgress = s.rxProgress := rfl
@[simp] theorem succeed_txProgress (d : Word32) (s : State) : (succeed d s).txProgress = s.txProgress := rfl
@[simp] theorem succeed_lastProgress (d : Word32) (s : State) : (succeed d s).lastProgress = s.lastProgress := rfl
@[simp] theorem succeed_mem (d : Word32) (s : State) : (succeed d s).mem = s.mem := rfl
@[simp] theorem succeed_cbTrace (d : Word32) (s : State) : (succeed d s).cbTrace = s.cbTrace := rfl
@[simp] theorem succeed_txTrace (d : Word32) (s : State) : (succeed d s).txTrace = s.txTrace := rfl
@[simp] theorem succeed_rxTrace (d : Word32) (s : State) : (succeed d s).rxTrace = s.rxTrace := rfl
@[simp] theorem succeed_callTrace (d : Word32) (s : State) : (succeed d s).callTrace = s.callTrace := rfl
@[simp] theorem succeed_inputs (d : Word32) (s : State) : (succeed d s).inputs = s.inputs := rfl
@[simp] theorem succeed_tick (d : Word32) (s : State) : (succeed d s).tick = s.tick := rfl

@[simp] theorem raiseError_params (e : ErrCode) (s : State) : (raiseError e s).params = s.params := rfl
@[simp] theorem raiseError_cmd (e : ErrCode) (s : State) : (raiseError e s).cmd = s.cmd := rfl
@[simp] theorem raiseError_rspErr (e : ErrCode) (s : State) : (raiseError e s).rspErr = e := rfl
@[simp] theorem raiseError_rspData (e : ErrCode) (s : State) : (raiseError e s).rspData = 0 := rfl
@[simp] theorem raiseError_fgBusy (e : ErrCode) (s : State) : (raiseError e s).fgBusy = false := rfl
@[simp] theorem raiseError_fgProc (e : ErrCode) (s : State) : (raiseError e s).fgProc = none := rfl
@[simp] theorem raiseError_runState (e : ErrCode) (s : State) : (raiseError e s).runState = s.runState := rfl
@[simp] theorem raiseError_recState (e : ErrCode) (s : State) : (raiseError e s).recState = s.recState := rfl
@[simp] theorem raiseError_readyHalf (e : ErrCode) (s : State) : (raiseError e s).readyHalf = s.readyHalf := rfl
@[simp] theorem raiseError_dispPhase (e : ErrCode) (s : State) : (raiseError e s).dispPhase = s.dispPhase := rfl
@[simp] theorem raiseError_dispBlock (e : ErrCode) (s : State) : (raiseError e s).dispBlock = s.dispBlock := rfl
@[simp] theorem raiseError_dispHalf (e : ErrCode) (s : State) : (raiseError e s).dispHalf = s.dispHalf := rfl
@[simp] theorem raiseError_dispProc (e : ErrCode) (s : State) : (raiseError e s).dispProc = s.dispProc := rfl
@[simp] theorem raiseError_rxFlags (e : ErrCode) (s : State) : (raiseError e s).rxFlags = s.rxFlags := rfl
@[simp] theorem raiseError_rxIrqEn (e : ErrCode) (s : State) : (raiseError e s).rxIrqEn = s.rxIrqEn := rfl
@[simp] theorem raiseError_rxEn (e : ErrCode) (s : State) : (raiseError e s).rxEn = s.rxEn := rfl
@[simp] theorem raiseError_rxNdtr (e : ErrCode) (s : State) : (raiseError e s).rxNdtr = s.rxNdtr := rfl
@[simp] theorem raiseError_rxCfg (e : ErrCode) (s : State) : (raiseError e s).rxCfg = s.rxCfg := rfl
@[simp] theorem raiseError_txFlags (e : ErrCode) (s : State) : (raiseError e s).txFlags = s.txFlags := rfl
@[simp] theorem raiseError_txIrqEn (e : ErrCode) (s : State) : (raiseError e s).txIrqEn = s.txIrqEn := rfl
@[simp] theorem raiseError_txEn (e : ErrCode) (s : State) : (raiseError e s).txEn = s.txEn := rfl
@[simp] theorem raiseError_txNdtr (e : ErrCode) (s : State) : (raiseError e s).txNdtr = s.txNdtr := rfl
@[simp] theorem raiseError_txCfg (e : ErrCode) (s : State) : (raiseError e s).txCfg = s.txCfg := rfl
@[simp] theorem raiseError_clocksOn (e : ErrCode) (s : State) : (raiseError e s).clocksOn = s.clocksOn := rfl
@[simp] theorem raiseError_cbClkOn (e : ErrCode) (s : State) : (raiseError e s).cbClkOn = s.cbClkOn := rfl
@[simp] theorem raiseError_pllLocked (e : ErrCode) (s : State) : (raiseError e s).pllLocked = s.pllLocked := rfl
@[simp] theorem raiseError_busEn (e : ErrCode) (s : State) : (raiseError e s).busEn = s.busEn := rfl
@[simp] theorem raiseError_extRxEn (e : ErrCode) (s : State) : (raiseError e s).extRxEn = s.extRxEn := rfl
@[simp] theorem raiseError_wsLine (e : ErrCode) (s : State) : (raiseError e s).wsLine = s.wsLine := rfl
@[simp] theorem raiseError_feStatus (e : ErrCode) (s : State) : (raiseError e s).feStatus = s.feStatus := rfl
@[simp] theorem raiseError_rxLineEn (e : ErrCode) (s : State) : (raiseError e s).rxLineEn = s.rxLineEn := rfl
@[simp] theorem raiseError_txLineEn (e : ErrCode) (s : State) : (raiseError e s).txLineEn = s.txLineEn := rfl
@[simp] theorem raiseError_feLineEn (e : ErrCode) (s : State) : (raiseError e s).feLineEn = s.feLineEn := rfl
@[simp] theorem raiseError_cfgValid (e : ErrCode) (s : State) : (raiseError e s).cfgValid = s.cfgValid := rfl
@[simp] theorem raiseError_cfgRate (e : ErrCode) (s : State) : (raiseError e s).cfgRate = s.cfgRate := rfl
@[simp] theorem raiseError_cfgClk (e : ErrCode) (s : State) : (raiseError e s).cfgClk = s.cfgClk := rfl
@[simp] theorem raiseError_bufsInit (e : ErrCode) (s : State) : (raiseError e s).bufsInit = s.bufsInit := rfl
@[simp] theorem raiseError_cbWait (e : ErrCode) (s : State) : (raiseError e s).cbWait = s.cbWait := rfl
@[simp] theorem raiseError_cbSr (e : ErrCode) (s : State) : (raiseError e s).cbSr = s.cbSr := rfl
@[simp] theorem raiseError_cbRxByte (e : ErrCode) (s : State) : (raiseError e s).cbRxByte = s.cbRxByte := rfl
@[simp] theorem raiseError_underrunFlag (e : ErrCode) (s : State) :
    (raiseError e s).underrunFlag = s.underrunFlag := rfl
@[simp] theorem raiseError_underrunCount (e : ErrCode) (s : State) :
    (raiseError e s).underrunCount = s.underrunCount := rfl
@[simp] theorem raiseError_teCount (e : ErrCode) (s : State) : (raiseError e s).teCount = s.teCount := rfl
@[simp] theorem raiseError_dmeCount (e : ErrCode) (s : State) : (raiseError e s).dmeCount = s.dmeCount := rfl
@[simp] theorem raiseError_recoveryCount (e : ErrCode) (s : State) :
    (raiseError e s).recoveryCount = s.recoveryCount := rfl
@[simp] theorem raiseError_recoveryFailCount (e : ErrCode) (s : State) :
    (raiseError e s).recoveryFailCount = s.recoveryFailCount := rfl
@[simp] theorem raiseError_callbackCount (e : ErrCode) (s : State) :
    (raiseError e s).callbackCount = s.callbackCount := rfl
@[simp] theorem raiseError_lastError (e : ErrCode) (s : State) : (raiseError e s).lastError = e := rfl
@[simp] theorem raiseError_rxProgress (e : ErrCode) (s : State) : (raiseError e s).rxProgress = s.rxProgress := rfl
@[simp] theorem raiseError_txProgress (e : ErrCode) (s : State) : (raiseError e s).txProgress = s.txProgress := rfl
@[simp] theorem raiseError_lastProgress (e : ErrCode) (s : State) :
    (raiseError e s).lastProgress = s.lastProgress := rfl
@[simp] theorem raiseError_mem (e : ErrCode) (s : State) : (raiseError e s).mem = s.mem := rfl
@[simp] theorem raiseError_cbTrace (e : ErrCode) (s : State) : (raiseError e s).cbTrace = s.cbTrace := rfl
@[simp] theorem raiseError_txTrace (e : ErrCode) (s : State) : (raiseError e s).txTrace = s.txTrace := rfl
@[simp] theorem raiseError_rxTrace (e : ErrCode) (s : State) : (raiseError e s).rxTrace = s.rxTrace := rfl
@[simp] theorem raiseError_callTrace (e : ErrCode) (s : State) : (raiseError e s).callTrace = s.callTrace := rfl
@[simp] theorem raiseError_inputs (e : ErrCode) (s : State) : (raiseError e s).inputs = s.inputs := rfl
@[simp] theorem raiseError_tick (e : ErrCode) (s : State) : (raiseError e s).tick = s.tick := rfl

@[simp] theorem continueFg_params (k : FgProc) (s : State) : (continueFg k s).params = s.params := rfl
@[simp] theorem continueFg_cmd (k : FgProc) (s : State) : (continueFg k s).cmd = s.cmd := rfl
@[simp] theorem continueFg_rspErr (k : FgProc) (s : State) : (continueFg k s).rspErr = s.rspErr := rfl
@[simp] theorem continueFg_rspData (k : FgProc) (s : State) : (continueFg k s).rspData = s.rspData := rfl
@[simp] theorem continueFg_fgBusy (k : FgProc) (s : State) : (continueFg k s).fgBusy = true := rfl
@[simp] theorem continueFg_fgProc (k : FgProc) (s : State) : (continueFg k s).fgProc = some k := rfl
@[simp] theorem continueFg_runState (k : FgProc) (s : State) : (continueFg k s).runState = s.runState := rfl
@[simp] theorem continueFg_recState (k : FgProc) (s : State) : (continueFg k s).recState = s.recState := rfl
@[simp] theorem continueFg_readyHalf (k : FgProc) (s : State) : (continueFg k s).readyHalf = s.readyHalf := rfl
@[simp] theorem continueFg_dispPhase (k : FgProc) (s : State) : (continueFg k s).dispPhase = s.dispPhase := rfl
@[simp] theorem continueFg_dispBlock (k : FgProc) (s : State) : (continueFg k s).dispBlock = s.dispBlock := rfl
@[simp] theorem continueFg_dispHalf (k : FgProc) (s : State) : (continueFg k s).dispHalf = s.dispHalf := rfl
@[simp] theorem continueFg_dispProc (k : FgProc) (s : State) : (continueFg k s).dispProc = s.dispProc := rfl
@[simp] theorem continueFg_rxFlags (k : FgProc) (s : State) : (continueFg k s).rxFlags = s.rxFlags := rfl
@[simp] theorem continueFg_rxIrqEn (k : FgProc) (s : State) : (continueFg k s).rxIrqEn = s.rxIrqEn := rfl
@[simp] theorem continueFg_rxEn (k : FgProc) (s : State) : (continueFg k s).rxEn = s.rxEn := rfl
@[simp] theorem continueFg_rxNdtr (k : FgProc) (s : State) : (continueFg k s).rxNdtr = s.rxNdtr := rfl
@[simp] theorem continueFg_rxCfg (k : FgProc) (s : State) : (continueFg k s).rxCfg = s.rxCfg := rfl
@[simp] theorem continueFg_txFlags (k : FgProc) (s : State) : (continueFg k s).txFlags = s.txFlags := rfl
@[simp] theorem continueFg_txIrqEn (k : FgProc) (s : State) : (continueFg k s).txIrqEn = s.txIrqEn := rfl
@[simp] theorem continueFg_txEn (k : FgProc) (s : State) : (continueFg k s).txEn = s.txEn := rfl
@[simp] theorem continueFg_txNdtr (k : FgProc) (s : State) : (continueFg k s).txNdtr = s.txNdtr := rfl
@[simp] theorem continueFg_txCfg (k : FgProc) (s : State) : (continueFg k s).txCfg = s.txCfg := rfl
@[simp] theorem continueFg_clocksOn (k : FgProc) (s : State) : (continueFg k s).clocksOn = s.clocksOn := rfl
@[simp] theorem continueFg_cbClkOn (k : FgProc) (s : State) : (continueFg k s).cbClkOn = s.cbClkOn := rfl
@[simp] theorem continueFg_pllLocked (k : FgProc) (s : State) : (continueFg k s).pllLocked = s.pllLocked := rfl
@[simp] theorem continueFg_busEn (k : FgProc) (s : State) : (continueFg k s).busEn = s.busEn := rfl
@[simp] theorem continueFg_extRxEn (k : FgProc) (s : State) : (continueFg k s).extRxEn = s.extRxEn := rfl
@[simp] theorem continueFg_wsLine (k : FgProc) (s : State) : (continueFg k s).wsLine = s.wsLine := rfl
@[simp] theorem continueFg_feStatus (k : FgProc) (s : State) : (continueFg k s).feStatus = s.feStatus := rfl
@[simp] theorem continueFg_rxLineEn (k : FgProc) (s : State) : (continueFg k s).rxLineEn = s.rxLineEn := rfl
@[simp] theorem continueFg_txLineEn (k : FgProc) (s : State) : (continueFg k s).txLineEn = s.txLineEn := rfl
@[simp] theorem continueFg_feLineEn (k : FgProc) (s : State) : (continueFg k s).feLineEn = s.feLineEn := rfl
@[simp] theorem continueFg_cfgValid (k : FgProc) (s : State) : (continueFg k s).cfgValid = s.cfgValid := rfl
@[simp] theorem continueFg_cfgRate (k : FgProc) (s : State) : (continueFg k s).cfgRate = s.cfgRate := rfl
@[simp] theorem continueFg_cfgClk (k : FgProc) (s : State) : (continueFg k s).cfgClk = s.cfgClk := rfl
@[simp] theorem continueFg_bufsInit (k : FgProc) (s : State) : (continueFg k s).bufsInit = s.bufsInit := rfl
@[simp] theorem continueFg_cbWait (k : FgProc) (s : State) : (continueFg k s).cbWait = s.cbWait := rfl
@[simp] theorem continueFg_cbSr (k : FgProc) (s : State) : (continueFg k s).cbSr = s.cbSr := rfl
@[simp] theorem continueFg_cbRxByte (k : FgProc) (s : State) : (continueFg k s).cbRxByte = s.cbRxByte := rfl
@[simp] theorem continueFg_underrunFlag (k : FgProc) (s : State) :
    (continueFg k s).underrunFlag = s.underrunFlag := rfl
@[simp] theorem continueFg_underrunCount (k : FgProc) (s : State) :
    (continueFg k s).underrunCount = s.underrunCount := rfl
@[simp] theorem continueFg_teCount (k : FgProc) (s : State) : (continueFg k s).teCount = s.teCount := rfl
@[simp] theorem continueFg_dmeCount (k : FgProc) (s : State) : (continueFg k s).dmeCount = s.dmeCount := rfl
@[simp] theorem continueFg_recoveryCount (k : FgProc) (s : State) :
    (continueFg k s).recoveryCount = s.recoveryCount := rfl
@[simp] theorem continueFg_recoveryFailCount (k : FgProc) (s : State) :
    (continueFg k s).recoveryFailCount = s.recoveryFailCount := rfl
@[simp] theorem continueFg_callbackCount (k : FgProc) (s : State) :
    (continueFg k s).callbackCount = s.callbackCount := rfl
@[simp] theorem continueFg_lastError (k : FgProc) (s : State) : (continueFg k s).lastError = s.lastError := rfl
@[simp] theorem continueFg_rxProgress (k : FgProc) (s : State) : (continueFg k s).rxProgress = s.rxProgress := rfl
@[simp] theorem continueFg_txProgress (k : FgProc) (s : State) : (continueFg k s).txProgress = s.txProgress := rfl
@[simp] theorem continueFg_lastProgress (k : FgProc) (s : State) :
    (continueFg k s).lastProgress = s.lastProgress := rfl
@[simp] theorem continueFg_mem (k : FgProc) (s : State) : (continueFg k s).mem = s.mem := rfl
@[simp] theorem continueFg_cbTrace (k : FgProc) (s : State) : (continueFg k s).cbTrace = s.cbTrace := rfl
@[simp] theorem continueFg_txTrace (k : FgProc) (s : State) : (continueFg k s).txTrace = s.txTrace := rfl
@[simp] theorem continueFg_rxTrace (k : FgProc) (s : State) : (continueFg k s).rxTrace = s.rxTrace := rfl
@[simp] theorem continueFg_callTrace (k : FgProc) (s : State) : (continueFg k s).callTrace = s.callTrace := rfl
@[simp] theorem continueFg_inputs (k : FgProc) (s : State) : (continueFg k s).inputs = s.inputs := rfl
@[simp] theorem continueFg_tick (k : FgProc) (s : State) : (continueFg k s).tick = s.tick := rfl

@[simp] theorem handlerReturn_params (s : State) : (handlerReturn s).params = s.params := rfl
@[simp] theorem handlerReturn_cmd (s : State) : (handlerReturn s).cmd = s.cmd := rfl
@[simp] theorem handlerReturn_rspErr (s : State) : (handlerReturn s).rspErr = s.rspErr := rfl
@[simp] theorem handlerReturn_rspData (s : State) : (handlerReturn s).rspData = s.rspData := rfl
@[simp] theorem handlerReturn_fgBusy (s : State) : (handlerReturn s).fgBusy = s.fgBusy := rfl
@[simp] theorem handlerReturn_fgProc (s : State) : (handlerReturn s).fgProc = s.fgProc := rfl
@[simp] theorem handlerReturn_runState (s : State) : (handlerReturn s).runState = s.runState := rfl
@[simp] theorem handlerReturn_recState (s : State) : (handlerReturn s).recState = s.recState := rfl
@[simp] theorem handlerReturn_readyHalf (s : State) : (handlerReturn s).readyHalf = s.readyHalf := rfl
@[simp] theorem handlerReturn_dispPhase (s : State) : (handlerReturn s).dispPhase = .idle := rfl
@[simp] theorem handlerReturn_dispBlock (s : State) : (handlerReturn s).dispBlock = s.dispBlock := rfl
@[simp] theorem handlerReturn_dispHalf (s : State) : (handlerReturn s).dispHalf = s.dispHalf := rfl
@[simp] theorem handlerReturn_dispProc (s : State) : (handlerReturn s).dispProc = none := rfl
@[simp] theorem handlerReturn_rxFlags (s : State) : (handlerReturn s).rxFlags = s.rxFlags := rfl
@[simp] theorem handlerReturn_rxIrqEn (s : State) : (handlerReturn s).rxIrqEn = s.rxIrqEn := rfl
@[simp] theorem handlerReturn_rxEn (s : State) : (handlerReturn s).rxEn = s.rxEn := rfl
@[simp] theorem handlerReturn_rxNdtr (s : State) : (handlerReturn s).rxNdtr = s.rxNdtr := rfl
@[simp] theorem handlerReturn_rxCfg (s : State) : (handlerReturn s).rxCfg = s.rxCfg := rfl
@[simp] theorem handlerReturn_txFlags (s : State) : (handlerReturn s).txFlags = s.txFlags := rfl
@[simp] theorem handlerReturn_txIrqEn (s : State) : (handlerReturn s).txIrqEn = s.txIrqEn := rfl
@[simp] theorem handlerReturn_txEn (s : State) : (handlerReturn s).txEn = s.txEn := rfl
@[simp] theorem handlerReturn_txNdtr (s : State) : (handlerReturn s).txNdtr = s.txNdtr := rfl
@[simp] theorem handlerReturn_txCfg (s : State) : (handlerReturn s).txCfg = s.txCfg := rfl
@[simp] theorem handlerReturn_clocksOn (s : State) : (handlerReturn s).clocksOn = s.clocksOn := rfl
@[simp] theorem handlerReturn_cbClkOn (s : State) : (handlerReturn s).cbClkOn = s.cbClkOn := rfl
@[simp] theorem handlerReturn_pllLocked (s : State) : (handlerReturn s).pllLocked = s.pllLocked := rfl
@[simp] theorem handlerReturn_busEn (s : State) : (handlerReturn s).busEn = s.busEn := rfl
@[simp] theorem handlerReturn_extRxEn (s : State) : (handlerReturn s).extRxEn = s.extRxEn := rfl
@[simp] theorem handlerReturn_wsLine (s : State) : (handlerReturn s).wsLine = s.wsLine := rfl
@[simp] theorem handlerReturn_feStatus (s : State) : (handlerReturn s).feStatus = s.feStatus := rfl
@[simp] theorem handlerReturn_rxLineEn (s : State) : (handlerReturn s).rxLineEn = s.rxLineEn := rfl
@[simp] theorem handlerReturn_txLineEn (s : State) : (handlerReturn s).txLineEn = s.txLineEn := rfl
@[simp] theorem handlerReturn_feLineEn (s : State) : (handlerReturn s).feLineEn = s.feLineEn := rfl
@[simp] theorem handlerReturn_cfgValid (s : State) : (handlerReturn s).cfgValid = s.cfgValid := rfl
@[simp] theorem handlerReturn_cfgRate (s : State) : (handlerReturn s).cfgRate = s.cfgRate := rfl
@[simp] theorem handlerReturn_cfgClk (s : State) : (handlerReturn s).cfgClk = s.cfgClk := rfl
@[simp] theorem handlerReturn_bufsInit (s : State) : (handlerReturn s).bufsInit = s.bufsInit := rfl
@[simp] theorem handlerReturn_cbWait (s : State) : (handlerReturn s).cbWait = s.cbWait := rfl
@[simp] theorem handlerReturn_cbSr (s : State) : (handlerReturn s).cbSr = s.cbSr := rfl
@[simp] theorem handlerReturn_cbRxByte (s : State) : (handlerReturn s).cbRxByte = s.cbRxByte := rfl
@[simp] theorem handlerReturn_underrunFlag (s : State) : (handlerReturn s).underrunFlag = s.underrunFlag := rfl
@[simp] theorem handlerReturn_underrunCount (s : State) : (handlerReturn s).underrunCount = s.underrunCount := rfl
@[simp] theorem handlerReturn_teCount (s : State) : (handlerReturn s).teCount = s.teCount := rfl
@[simp] theorem handlerReturn_dmeCount (s : State) : (handlerReturn s).dmeCount = s.dmeCount := rfl
@[simp] theorem handlerReturn_recoveryCount (s : State) : (handlerReturn s).recoveryCount = s.recoveryCount := rfl
@[simp] theorem handlerReturn_recoveryFailCount (s : State) :
    (handlerReturn s).recoveryFailCount = s.recoveryFailCount := rfl
@[simp] theorem handlerReturn_callbackCount (s : State) : (handlerReturn s).callbackCount = s.callbackCount := rfl
@[simp] theorem handlerReturn_lastError (s : State) : (handlerReturn s).lastError = s.lastError := rfl
@[simp] theorem handlerReturn_rxProgress (s : State) : (handlerReturn s).rxProgress = s.rxProgress := rfl
@[simp] theorem handlerReturn_txProgress (s : State) : (handlerReturn s).txProgress = s.txProgress := rfl
@[simp] theorem handlerReturn_lastProgress (s : State) : (handlerReturn s).lastProgress = s.lastProgress := rfl
@[simp] theorem handlerReturn_mem (s : State) : (handlerReturn s).mem = s.mem := rfl
@[simp] theorem handlerReturn_cbTrace (s : State) : (handlerReturn s).cbTrace = s.cbTrace := rfl
@[simp] theorem handlerReturn_txTrace (s : State) : (handlerReturn s).txTrace = s.txTrace := rfl
@[simp] theorem handlerReturn_rxTrace (s : State) : (handlerReturn s).rxTrace = s.rxTrace := rfl
@[simp] theorem handlerReturn_callTrace (s : State) : (handlerReturn s).callTrace = s.callTrace := rfl
@[simp] theorem handlerReturn_inputs (s : State) : (handlerReturn s).inputs = s.inputs := rfl
@[simp] theorem handlerReturn_tick (s : State) : (handlerReturn s).tick = s.tick := rfl

@[simp] theorem invokeCallback_params (s : State) : (invokeCallback s).params = s.params := rfl
@[simp] theorem invokeCallback_cmd (s : State) : (invokeCallback s).cmd = s.cmd := rfl
@[simp] theorem invokeCallback_rspErr (s : State) : (invokeCallback s).rspErr = s.rspErr := rfl
@[simp] theorem invokeCallback_rspData (s : State) : (invokeCallback s).rspData = s.rspData := rfl
@[simp] theorem invokeCallback_fgBusy (s : State) : (invokeCallback s).fgBusy = s.fgBusy := rfl
@[simp] theorem invokeCallback_fgProc (s : State) : (invokeCallback s).fgProc = s.fgProc := rfl
@[simp] theorem invokeCallback_runState (s : State) : (invokeCallback s).runState = s.runState := rfl
@[simp] theorem invokeCallback_recState (s : State) : (invokeCallback s).recState = s.recState := rfl
@[simp] theorem invokeCallback_readyHalf (s : State) : (invokeCallback s).readyHalf = s.readyHalf := rfl
@[simp] theorem invokeCallback_dispPhase (s : State) : (invokeCallback s).dispPhase = .callback := rfl
@[simp] theorem invokeCallback_dispBlock (s : State) : (invokeCallback s).dispBlock = s.dispBlock := rfl
@[simp] theorem invokeCallback_dispHalf (s : State) : (invokeCallback s).dispHalf = s.dispHalf := rfl
@[simp] theorem invokeCallback_dispProc (s : State) : (invokeCallback s).dispProc = none := rfl
@[simp] theorem invokeCallback_rxFlags (s : State) : (invokeCallback s).rxFlags = s.rxFlags := rfl
@[simp] theorem invokeCallback_rxIrqEn (s : State) : (invokeCallback s).rxIrqEn = s.rxIrqEn := rfl
@[simp] theorem invokeCallback_rxEn (s : State) : (invokeCallback s).rxEn = s.rxEn := rfl
@[simp] theorem invokeCallback_rxNdtr (s : State) : (invokeCallback s).rxNdtr = s.rxNdtr := rfl
@[simp] theorem invokeCallback_rxCfg (s : State) : (invokeCallback s).rxCfg = s.rxCfg := rfl
@[simp] theorem invokeCallback_txFlags (s : State) : (invokeCallback s).txFlags = s.txFlags := rfl
@[simp] theorem invokeCallback_txIrqEn (s : State) : (invokeCallback s).txIrqEn = s.txIrqEn := rfl
@[simp] theorem invokeCallback_txEn (s : State) : (invokeCallback s).txEn = s.txEn := rfl
@[simp] theorem invokeCallback_txNdtr (s : State) : (invokeCallback s).txNdtr = s.txNdtr := rfl
@[simp] theorem invokeCallback_txCfg (s : State) : (invokeCallback s).txCfg = s.txCfg := rfl
@[simp] theorem invokeCallback_clocksOn (s : State) : (invokeCallback s).clocksOn = s.clocksOn := rfl
@[simp] theorem invokeCallback_cbClkOn (s : State) : (invokeCallback s).cbClkOn = s.cbClkOn := rfl
@[simp] theorem invokeCallback_pllLocked (s : State) : (invokeCallback s).pllLocked = s.pllLocked := rfl
@[simp] theorem invokeCallback_busEn (s : State) : (invokeCallback s).busEn = s.busEn := rfl
@[simp] theorem invokeCallback_extRxEn (s : State) : (invokeCallback s).extRxEn = s.extRxEn := rfl
@[simp] theorem invokeCallback_wsLine (s : State) : (invokeCallback s).wsLine = s.wsLine := rfl
@[simp] theorem invokeCallback_feStatus (s : State) : (invokeCallback s).feStatus = s.feStatus := rfl
@[simp] theorem invokeCallback_rxLineEn (s : State) : (invokeCallback s).rxLineEn = s.rxLineEn := rfl
@[simp] theorem invokeCallback_txLineEn (s : State) : (invokeCallback s).txLineEn = s.txLineEn := rfl
@[simp] theorem invokeCallback_feLineEn (s : State) : (invokeCallback s).feLineEn = s.feLineEn := rfl
@[simp] theorem invokeCallback_cfgValid (s : State) : (invokeCallback s).cfgValid = s.cfgValid := rfl
@[simp] theorem invokeCallback_cfgRate (s : State) : (invokeCallback s).cfgRate = s.cfgRate := rfl
@[simp] theorem invokeCallback_cfgClk (s : State) : (invokeCallback s).cfgClk = s.cfgClk := rfl
@[simp] theorem invokeCallback_bufsInit (s : State) : (invokeCallback s).bufsInit = s.bufsInit := rfl
@[simp] theorem invokeCallback_cbWait (s : State) : (invokeCallback s).cbWait = s.cbWait := rfl
@[simp] theorem invokeCallback_cbSr (s : State) : (invokeCallback s).cbSr = s.cbSr := rfl
@[simp] theorem invokeCallback_cbRxByte (s : State) : (invokeCallback s).cbRxByte = s.cbRxByte := rfl
@[simp] theorem invokeCallback_underrunFlag (s : State) : (invokeCallback s).underrunFlag = s.underrunFlag := rfl
@[simp] theorem invokeCallback_underrunCount (s : State) : (invokeCallback s).underrunCount = s.underrunCount := rfl
@[simp] theorem invokeCallback_teCount (s : State) : (invokeCallback s).teCount = s.teCount := rfl
@[simp] theorem invokeCallback_dmeCount (s : State) : (invokeCallback s).dmeCount = s.dmeCount := rfl
@[simp] theorem invokeCallback_recoveryCount (s : State) : (invokeCallback s).recoveryCount = s.recoveryCount := rfl
@[simp] theorem invokeCallback_recoveryFailCount (s : State) :
    (invokeCallback s).recoveryFailCount = s.recoveryFailCount := rfl
@[simp] theorem invokeCallback_callbackCount (s : State) :
    (invokeCallback s).callbackCount = satInc s.callbackCount := rfl
@[simp] theorem invokeCallback_lastError (s : State) : (invokeCallback s).lastError = s.lastError := rfl
@[simp] theorem invokeCallback_rxProgress (s : State) : (invokeCallback s).rxProgress = s.rxProgress := rfl
@[simp] theorem invokeCallback_txProgress (s : State) : (invokeCallback s).txProgress = s.txProgress := rfl
@[simp] theorem invokeCallback_lastProgress (s : State) : (invokeCallback s).lastProgress = s.lastProgress := rfl
@[simp] theorem invokeCallback_mem (s : State) : (invokeCallback s).mem = s.mem := rfl
@[simp] theorem invokeCallback_cbTrace (s : State) : (invokeCallback s).cbTrace = s.cbTrace := rfl
@[simp] theorem invokeCallback_txTrace (s : State) : (invokeCallback s).txTrace = s.txTrace := rfl
@[simp] theorem invokeCallback_rxTrace (s : State) : (invokeCallback s).rxTrace = s.rxTrace := rfl
@[simp] theorem invokeCallback_callTrace (s : State) :
    (invokeCallback s).callTrace = s.callTrace ++ [s.dispHalf] := rfl
@[simp] theorem invokeCallback_inputs (s : State) : (invokeCallback s).inputs = s.inputs := rfl
@[simp] theorem invokeCallback_tick (s : State) : (invokeCallback s).tick = s.tick := rfl

@[simp] theorem applyClock_params (r : Rate) (s : State) : (applyClock r s).params = s.params := rfl
@[simp] theorem applyClock_cmd (r : Rate) (s : State) : (applyClock r s).cmd = s.cmd := rfl
@[simp] theorem applyClock_rspErr (r : Rate) (s : State) : (applyClock r s).rspErr = s.rspErr := rfl
@[simp] theorem applyClock_rspData (r : Rate) (s : State) : (applyClock r s).rspData = s.rspData := rfl
@[simp] theorem applyClock_fgBusy (r : Rate) (s : State) : (applyClock r s).fgBusy = s.fgBusy := rfl
@[simp] theorem applyClock_fgProc (r : Rate) (s : State) : (applyClock r s).fgProc = s.fgProc := rfl
@[simp] theorem applyClock_runState (r : Rate) (s : State) : (applyClock r s).runState = s.runState := rfl
@[simp] theorem applyClock_recState (r : Rate) (s : State) : (applyClock r s).recState = s.recState := rfl
@[simp] theorem applyClock_readyHalf (r : Rate) (s : State) : (applyClock r s).readyHalf = s.readyHalf := rfl
@[simp] theorem applyClock_dispPhase (r : Rate) (s : State) : (applyClock r s).dispPhase = s.dispPhase := rfl
@[simp] theorem applyClock_dispBlock (r : Rate) (s : State) : (applyClock r s).dispBlock = s.dispBlock := rfl
@[simp] theorem applyClock_dispHalf (r : Rate) (s : State) : (applyClock r s).dispHalf = s.dispHalf := rfl
@[simp] theorem applyClock_dispProc (r : Rate) (s : State) : (applyClock r s).dispProc = s.dispProc := rfl
@[simp] theorem applyClock_rxFlags (r : Rate) (s : State) : (applyClock r s).rxFlags = s.rxFlags := rfl
@[simp] theorem applyClock_rxIrqEn (r : Rate) (s : State) : (applyClock r s).rxIrqEn = s.rxIrqEn := rfl
@[simp] theorem applyClock_rxEn (r : Rate) (s : State) : (applyClock r s).rxEn = s.rxEn := rfl
@[simp] theorem applyClock_rxNdtr (r : Rate) (s : State) : (applyClock r s).rxNdtr = s.rxNdtr := rfl
@[simp] theorem applyClock_rxCfg (r : Rate) (s : State) : (applyClock r s).rxCfg = s.rxCfg := rfl
@[simp] theorem applyClock_txFlags (r : Rate) (s : State) : (applyClock r s).txFlags = s.txFlags := rfl
@[simp] theorem applyClock_txIrqEn (r : Rate) (s : State) : (applyClock r s).txIrqEn = s.txIrqEn := rfl
@[simp] theorem applyClock_txEn (r : Rate) (s : State) : (applyClock r s).txEn = s.txEn := rfl
@[simp] theorem applyClock_txNdtr (r : Rate) (s : State) : (applyClock r s).txNdtr = s.txNdtr := rfl
@[simp] theorem applyClock_txCfg (r : Rate) (s : State) : (applyClock r s).txCfg = s.txCfg := rfl
@[simp] theorem applyClock_clocksOn (r : Rate) (s : State) : (applyClock r s).clocksOn = s.clocksOn := rfl
@[simp] theorem applyClock_cbClkOn (r : Rate) (s : State) : (applyClock r s).cbClkOn = s.cbClkOn := rfl
@[simp] theorem applyClock_pllLocked (r : Rate) (s : State) : (applyClock r s).pllLocked = false := rfl
@[simp] theorem applyClock_busEn (r : Rate) (s : State) : (applyClock r s).busEn = s.busEn := rfl
@[simp] theorem applyClock_extRxEn (r : Rate) (s : State) : (applyClock r s).extRxEn = s.extRxEn := rfl
@[simp] theorem applyClock_wsLine (r : Rate) (s : State) : (applyClock r s).wsLine = s.wsLine := rfl
@[simp] theorem applyClock_feStatus (r : Rate) (s : State) : (applyClock r s).feStatus = s.feStatus := rfl
@[simp] theorem applyClock_rxLineEn (r : Rate) (s : State) : (applyClock r s).rxLineEn = s.rxLineEn := rfl
@[simp] theorem applyClock_txLineEn (r : Rate) (s : State) : (applyClock r s).txLineEn = s.txLineEn := rfl
@[simp] theorem applyClock_feLineEn (r : Rate) (s : State) : (applyClock r s).feLineEn = s.feLineEn := rfl
@[simp] theorem applyClock_cfgValid (r : Rate) (s : State) : (applyClock r s).cfgValid = s.cfgValid := rfl
@[simp] theorem applyClock_cfgRate (r : Rate) (s : State) : (applyClock r s).cfgRate = s.cfgRate := rfl
@[simp] theorem applyClock_cfgClk (r : Rate) (s : State) : (applyClock r s).cfgClk = clockTable s.params r := rfl
@[simp] theorem applyClock_bufsInit (r : Rate) (s : State) : (applyClock r s).bufsInit = s.bufsInit := rfl
@[simp] theorem applyClock_cbWait (r : Rate) (s : State) : (applyClock r s).cbWait = s.cbWait := rfl
@[simp] theorem applyClock_cbSr (r : Rate) (s : State) : (applyClock r s).cbSr = s.cbSr := rfl
@[simp] theorem applyClock_cbRxByte (r : Rate) (s : State) : (applyClock r s).cbRxByte = s.cbRxByte := rfl
@[simp] theorem applyClock_underrunFlag (r : Rate) (s : State) : (applyClock r s).underrunFlag = s.underrunFlag := rfl
@[simp] theorem applyClock_underrunCount (r : Rate) (s : State) :
    (applyClock r s).underrunCount = s.underrunCount := rfl
@[simp] theorem applyClock_teCount (r : Rate) (s : State) : (applyClock r s).teCount = s.teCount := rfl
@[simp] theorem applyClock_dmeCount (r : Rate) (s : State) : (applyClock r s).dmeCount = s.dmeCount := rfl
@[simp] theorem applyClock_recoveryCount (r : Rate) (s : State) :
    (applyClock r s).recoveryCount = s.recoveryCount := rfl
@[simp] theorem applyClock_recoveryFailCount (r : Rate) (s : State) :
    (applyClock r s).recoveryFailCount = s.recoveryFailCount := rfl
@[simp] theorem applyClock_callbackCount (r : Rate) (s : State) :
    (applyClock r s).callbackCount = s.callbackCount := rfl
@[simp] theorem applyClock_lastError (r : Rate) (s : State) : (applyClock r s).lastError = s.lastError := rfl
@[simp] theorem applyClock_rxProgress (r : Rate) (s : State) : (applyClock r s).rxProgress = s.rxProgress := rfl
@[simp] theorem applyClock_txProgress (r : Rate) (s : State) : (applyClock r s).txProgress = s.txProgress := rfl
@[simp] theorem applyClock_lastProgress (r : Rate) (s : State) : (applyClock r s).lastProgress = s.lastProgress := rfl
@[simp] theorem applyClock_mem (r : Rate) (s : State) : (applyClock r s).mem = s.mem := rfl
@[simp] theorem applyClock_cbTrace (r : Rate) (s : State) : (applyClock r s).cbTrace = s.cbTrace := rfl
@[simp] theorem applyClock_txTrace (r : Rate) (s : State) : (applyClock r s).txTrace = s.txTrace := rfl
@[simp] theorem applyClock_rxTrace (r : Rate) (s : State) : (applyClock r s).rxTrace = s.rxTrace := rfl
@[simp] theorem applyClock_callTrace (r : Rate) (s : State) : (applyClock r s).callTrace = s.callTrace := rfl
@[simp] theorem applyClock_inputs (r : Rate) (s : State) : (applyClock r s).inputs = s.inputs := rfl
@[simp] theorem applyClock_tick (r : Rate) (s : State) : (applyClock r s).tick = s.tick := rfl

@[simp] theorem invalidateConfig_params (s : State) : (invalidateConfig s).params = s.params := rfl
@[simp] theorem invalidateConfig_cmd (s : State) : (invalidateConfig s).cmd = s.cmd := rfl
@[simp] theorem invalidateConfig_rspErr (s : State) : (invalidateConfig s).rspErr = s.rspErr := rfl
@[simp] theorem invalidateConfig_rspData (s : State) : (invalidateConfig s).rspData = s.rspData := rfl
@[simp] theorem invalidateConfig_fgBusy (s : State) : (invalidateConfig s).fgBusy = s.fgBusy := rfl
@[simp] theorem invalidateConfig_fgProc (s : State) : (invalidateConfig s).fgProc = s.fgProc := rfl
@[simp] theorem invalidateConfig_runState (s : State) : (invalidateConfig s).runState = .uninitialized := rfl
@[simp] theorem invalidateConfig_recState (s : State) : (invalidateConfig s).recState = s.recState := rfl
@[simp] theorem invalidateConfig_readyHalf (s : State) : (invalidateConfig s).readyHalf = s.readyHalf := rfl
@[simp] theorem invalidateConfig_dispPhase (s : State) : (invalidateConfig s).dispPhase = s.dispPhase := rfl
@[simp] theorem invalidateConfig_dispBlock (s : State) : (invalidateConfig s).dispBlock = s.dispBlock := rfl
@[simp] theorem invalidateConfig_dispHalf (s : State) : (invalidateConfig s).dispHalf = s.dispHalf := rfl
@[simp] theorem invalidateConfig_dispProc (s : State) : (invalidateConfig s).dispProc = s.dispProc := rfl
@[simp] theorem invalidateConfig_rxFlags (s : State) : (invalidateConfig s).rxFlags = s.rxFlags := rfl
@[simp] theorem invalidateConfig_rxIrqEn (s : State) : (invalidateConfig s).rxIrqEn = s.rxIrqEn := rfl
@[simp] theorem invalidateConfig_rxEn (s : State) : (invalidateConfig s).rxEn = s.rxEn := rfl
@[simp] theorem invalidateConfig_rxNdtr (s : State) : (invalidateConfig s).rxNdtr = s.rxNdtr := rfl
@[simp] theorem invalidateConfig_rxCfg (s : State) : (invalidateConfig s).rxCfg = s.rxCfg := rfl
@[simp] theorem invalidateConfig_txFlags (s : State) : (invalidateConfig s).txFlags = s.txFlags := rfl
@[simp] theorem invalidateConfig_txIrqEn (s : State) : (invalidateConfig s).txIrqEn = s.txIrqEn := rfl
@[simp] theorem invalidateConfig_txEn (s : State) : (invalidateConfig s).txEn = s.txEn := rfl
@[simp] theorem invalidateConfig_txNdtr (s : State) : (invalidateConfig s).txNdtr = s.txNdtr := rfl
@[simp] theorem invalidateConfig_txCfg (s : State) : (invalidateConfig s).txCfg = s.txCfg := rfl
@[simp] theorem invalidateConfig_clocksOn (s : State) : (invalidateConfig s).clocksOn = s.clocksOn := rfl
@[simp] theorem invalidateConfig_cbClkOn (s : State) : (invalidateConfig s).cbClkOn = s.cbClkOn := rfl
@[simp] theorem invalidateConfig_pllLocked (s : State) : (invalidateConfig s).pllLocked = s.pllLocked := rfl
@[simp] theorem invalidateConfig_busEn (s : State) : (invalidateConfig s).busEn = s.busEn := rfl
@[simp] theorem invalidateConfig_extRxEn (s : State) : (invalidateConfig s).extRxEn = s.extRxEn := rfl
@[simp] theorem invalidateConfig_wsLine (s : State) : (invalidateConfig s).wsLine = s.wsLine := rfl
@[simp] theorem invalidateConfig_feStatus (s : State) : (invalidateConfig s).feStatus = s.feStatus := rfl
@[simp] theorem invalidateConfig_rxLineEn (s : State) : (invalidateConfig s).rxLineEn = s.rxLineEn := rfl
@[simp] theorem invalidateConfig_txLineEn (s : State) : (invalidateConfig s).txLineEn = s.txLineEn := rfl
@[simp] theorem invalidateConfig_feLineEn (s : State) : (invalidateConfig s).feLineEn = s.feLineEn := rfl
@[simp] theorem invalidateConfig_cfgValid (s : State) : (invalidateConfig s).cfgValid = false := rfl
@[simp] theorem invalidateConfig_cfgRate (s : State) : (invalidateConfig s).cfgRate = s.cfgRate := rfl
@[simp] theorem invalidateConfig_cfgClk (s : State) : (invalidateConfig s).cfgClk = s.cfgClk := rfl
@[simp] theorem invalidateConfig_bufsInit (s : State) : (invalidateConfig s).bufsInit = s.bufsInit := rfl
@[simp] theorem invalidateConfig_cbWait (s : State) : (invalidateConfig s).cbWait = s.cbWait := rfl
@[simp] theorem invalidateConfig_cbSr (s : State) : (invalidateConfig s).cbSr = s.cbSr := rfl
@[simp] theorem invalidateConfig_cbRxByte (s : State) : (invalidateConfig s).cbRxByte = s.cbRxByte := rfl
@[simp] theorem invalidateConfig_underrunFlag (s : State) : (invalidateConfig s).underrunFlag = s.underrunFlag := rfl
@[simp] theorem invalidateConfig_underrunCount (s : State) :
    (invalidateConfig s).underrunCount = s.underrunCount := rfl
@[simp] theorem invalidateConfig_teCount (s : State) : (invalidateConfig s).teCount = s.teCount := rfl
@[simp] theorem invalidateConfig_dmeCount (s : State) : (invalidateConfig s).dmeCount = s.dmeCount := rfl
@[simp] theorem invalidateConfig_recoveryCount (s : State) :
    (invalidateConfig s).recoveryCount = s.recoveryCount := rfl
@[simp] theorem invalidateConfig_recoveryFailCount (s : State) :
    (invalidateConfig s).recoveryFailCount = s.recoveryFailCount := rfl
@[simp] theorem invalidateConfig_callbackCount (s : State) :
    (invalidateConfig s).callbackCount = s.callbackCount := rfl
@[simp] theorem invalidateConfig_lastError (s : State) : (invalidateConfig s).lastError = s.lastError := rfl
@[simp] theorem invalidateConfig_rxProgress (s : State) : (invalidateConfig s).rxProgress = s.rxProgress := rfl
@[simp] theorem invalidateConfig_txProgress (s : State) : (invalidateConfig s).txProgress = s.txProgress := rfl
@[simp] theorem invalidateConfig_lastProgress (s : State) : (invalidateConfig s).lastProgress = s.lastProgress := rfl
@[simp] theorem invalidateConfig_mem (s : State) : (invalidateConfig s).mem = s.mem := rfl
@[simp] theorem invalidateConfig_cbTrace (s : State) : (invalidateConfig s).cbTrace = s.cbTrace := rfl
@[simp] theorem invalidateConfig_txTrace (s : State) : (invalidateConfig s).txTrace = s.txTrace := rfl
@[simp] theorem invalidateConfig_rxTrace (s : State) : (invalidateConfig s).rxTrace = s.rxTrace := rfl
@[simp] theorem invalidateConfig_callTrace (s : State) : (invalidateConfig s).callTrace = s.callTrace := rfl
@[simp] theorem invalidateConfig_inputs (s : State) : (invalidateConfig s).inputs = s.inputs := rfl
@[simp] theorem invalidateConfig_tick (s : State) : (invalidateConfig s).tick = s.tick := rfl

@[simp] theorem dmaConfigure_params (s : State) : (dmaConfigure s).params = s.params := rfl
@[simp] theorem dmaConfigure_cmd (s : State) : (dmaConfigure s).cmd = s.cmd := rfl
@[simp] theorem dmaConfigure_rspErr (s : State) : (dmaConfigure s).rspErr = s.rspErr := rfl
@[simp] theorem dmaConfigure_rspData (s : State) : (dmaConfigure s).rspData = s.rspData := rfl
@[simp] theorem dmaConfigure_fgBusy (s : State) : (dmaConfigure s).fgBusy = s.fgBusy := rfl
@[simp] theorem dmaConfigure_fgProc (s : State) : (dmaConfigure s).fgProc = s.fgProc := rfl
@[simp] theorem dmaConfigure_runState (s : State) : (dmaConfigure s).runState = s.runState := rfl
@[simp] theorem dmaConfigure_recState (s : State) : (dmaConfigure s).recState = s.recState := rfl
@[simp] theorem dmaConfigure_readyHalf (s : State) : (dmaConfigure s).readyHalf = s.readyHalf := rfl
@[simp] theorem dmaConfigure_dispPhase (s : State) : (dmaConfigure s).dispPhase = s.dispPhase := rfl
@[simp] theorem dmaConfigure_dispBlock (s : State) : (dmaConfigure s).dispBlock = s.dispBlock := rfl
@[simp] theorem dmaConfigure_dispHalf (s : State) : (dmaConfigure s).dispHalf = s.dispHalf := rfl
@[simp] theorem dmaConfigure_dispProc (s : State) : (dmaConfigure s).dispProc = s.dispProc := rfl
@[simp] theorem dmaConfigure_rxFlags (s : State) :
    (dmaConfigure s).rxFlags = { ht := false, tc := false, te := false, dme := false } := rfl
@[simp] theorem dmaConfigure_rxIrqEn (s : State) :
    (dmaConfigure s).rxIrqEn = { ht := true, tc := true, te := true, dme := true } := rfl
@[simp] theorem dmaConfigure_rxEn (s : State) : (dmaConfigure s).rxEn = false := rfl
@[simp] theorem dmaConfigure_rxNdtr (s : State) : (dmaConfigure s).rxNdtr = s.rxNdtr := rfl
@[simp] theorem dmaConfigure_rxCfg (s : State) :
    (dmaConfigure s).rxCfg = { circ := true, dir := .p2m, itemBits := Config.sampleBits, minc := true, pinc := false, count := BitVec.ofNat 16 s.params.nRx, burst := s.params.rxBurst } := rfl
@[simp] theorem dmaConfigure_txFlags (s : State) : (dmaConfigure s).txFlags = { te := false, dme := false } := rfl
@[simp] theorem dmaConfigure_txIrqEn (s : State) : (dmaConfigure s).txIrqEn = { te := true, dme := true } := rfl
@[simp] theorem dmaConfigure_txEn (s : State) : (dmaConfigure s).txEn = false := rfl
@[simp] theorem dmaConfigure_txNdtr (s : State) : (dmaConfigure s).txNdtr = s.txNdtr := rfl
@[simp] theorem dmaConfigure_txCfg (s : State) :
    (dmaConfigure s).txCfg = { circ := true, dir := .m2p, itemBits := Config.sampleBits, minc := true, pinc := false, count := BitVec.ofNat 16 s.params.nTx, burst := s.params.txBurst } := rfl
@[simp] theorem dmaConfigure_clocksOn (s : State) : (dmaConfigure s).clocksOn = s.clocksOn := rfl
@[simp] theorem dmaConfigure_cbClkOn (s : State) : (dmaConfigure s).cbClkOn = s.cbClkOn := rfl
@[simp] theorem dmaConfigure_pllLocked (s : State) : (dmaConfigure s).pllLocked = s.pllLocked := rfl
@[simp] theorem dmaConfigure_busEn (s : State) : (dmaConfigure s).busEn = s.busEn := rfl
@[simp] theorem dmaConfigure_extRxEn (s : State) : (dmaConfigure s).extRxEn = s.extRxEn := rfl
@[simp] theorem dmaConfigure_wsLine (s : State) : (dmaConfigure s).wsLine = s.wsLine := rfl
@[simp] theorem dmaConfigure_feStatus (s : State) : (dmaConfigure s).feStatus = s.feStatus := rfl
@[simp] theorem dmaConfigure_rxLineEn (s : State) : (dmaConfigure s).rxLineEn = s.rxLineEn := rfl
@[simp] theorem dmaConfigure_txLineEn (s : State) : (dmaConfigure s).txLineEn = s.txLineEn := rfl
@[simp] theorem dmaConfigure_feLineEn (s : State) : (dmaConfigure s).feLineEn = s.feLineEn := rfl
@[simp] theorem dmaConfigure_cfgValid (s : State) : (dmaConfigure s).cfgValid = s.cfgValid := rfl
@[simp] theorem dmaConfigure_cfgRate (s : State) : (dmaConfigure s).cfgRate = s.cfgRate := rfl
@[simp] theorem dmaConfigure_cfgClk (s : State) : (dmaConfigure s).cfgClk = s.cfgClk := rfl
@[simp] theorem dmaConfigure_bufsInit (s : State) : (dmaConfigure s).bufsInit = s.bufsInit := rfl
@[simp] theorem dmaConfigure_cbWait (s : State) : (dmaConfigure s).cbWait = s.cbWait := rfl
@[simp] theorem dmaConfigure_cbSr (s : State) : (dmaConfigure s).cbSr = s.cbSr := rfl
@[simp] theorem dmaConfigure_cbRxByte (s : State) : (dmaConfigure s).cbRxByte = s.cbRxByte := rfl
@[simp] theorem dmaConfigure_underrunFlag (s : State) : (dmaConfigure s).underrunFlag = s.underrunFlag := rfl
@[simp] theorem dmaConfigure_underrunCount (s : State) : (dmaConfigure s).underrunCount = s.underrunCount := rfl
@[simp] theorem dmaConfigure_teCount (s : State) : (dmaConfigure s).teCount = s.teCount := rfl
@[simp] theorem dmaConfigure_dmeCount (s : State) : (dmaConfigure s).dmeCount = s.dmeCount := rfl
@[simp] theorem dmaConfigure_recoveryCount (s : State) : (dmaConfigure s).recoveryCount = s.recoveryCount := rfl
@[simp] theorem dmaConfigure_recoveryFailCount (s : State) :
    (dmaConfigure s).recoveryFailCount = s.recoveryFailCount := rfl
@[simp] theorem dmaConfigure_callbackCount (s : State) : (dmaConfigure s).callbackCount = s.callbackCount := rfl
@[simp] theorem dmaConfigure_lastError (s : State) : (dmaConfigure s).lastError = s.lastError := rfl
@[simp] theorem dmaConfigure_rxProgress (s : State) : (dmaConfigure s).rxProgress = s.rxProgress := rfl
@[simp] theorem dmaConfigure_txProgress (s : State) : (dmaConfigure s).txProgress = s.txProgress := rfl
@[simp] theorem dmaConfigure_lastProgress (s : State) : (dmaConfigure s).lastProgress = s.lastProgress := rfl
@[simp] theorem dmaConfigure_mem (s : State) : (dmaConfigure s).mem = s.mem := rfl
@[simp] theorem dmaConfigure_cbTrace (s : State) : (dmaConfigure s).cbTrace = s.cbTrace := rfl
@[simp] theorem dmaConfigure_txTrace (s : State) : (dmaConfigure s).txTrace = s.txTrace := rfl
@[simp] theorem dmaConfigure_rxTrace (s : State) : (dmaConfigure s).rxTrace = s.rxTrace := rfl
@[simp] theorem dmaConfigure_callTrace (s : State) : (dmaConfigure s).callTrace = s.callTrace := rfl
@[simp] theorem dmaConfigure_inputs (s : State) : (dmaConfigure s).inputs = s.inputs := rfl
@[simp] theorem dmaConfigure_tick (s : State) : (dmaConfigure s).tick = s.tick := rfl

@[simp] theorem finishSetup_params (rate : BitVec 24) (s : State) : (finishSetup rate s).params = s.params := rfl
@[simp] theorem finishSetup_cmd (rate : BitVec 24) (s : State) : (finishSetup rate s).cmd = s.cmd := rfl
@[simp] theorem finishSetup_rspErr (rate : BitVec 24) (s : State) : (finishSetup rate s).rspErr = s.rspErr := rfl
@[simp] theorem finishSetup_rspData (rate : BitVec 24) (s : State) : (finishSetup rate s).rspData = s.rspData := rfl
@[simp] theorem finishSetup_fgBusy (rate : BitVec 24) (s : State) : (finishSetup rate s).fgBusy = s.fgBusy := rfl
@[simp] theorem finishSetup_fgProc (rate : BitVec 24) (s : State) : (finishSetup rate s).fgProc = s.fgProc := rfl
@[simp] theorem finishSetup_runState (rate : BitVec 24) (s : State) :
    (finishSetup rate s).runState = .configured := rfl
@[simp] theorem finishSetup_recState (rate : BitVec 24) (s : State) :
    (finishSetup rate s).recState = s.recState := rfl
@[simp] theorem finishSetup_readyHalf (rate : BitVec 24) (s : State) :
    (finishSetup rate s).readyHalf = s.readyHalf := rfl
@[simp] theorem finishSetup_dispPhase (rate : BitVec 24) (s : State) :
    (finishSetup rate s).dispPhase = s.dispPhase := rfl
@[simp] theorem finishSetup_dispBlock (rate : BitVec 24) (s : State) :
    (finishSetup rate s).dispBlock = s.dispBlock := rfl
@[simp] theorem finishSetup_dispHalf (rate : BitVec 24) (s : State) :
    (finishSetup rate s).dispHalf = s.dispHalf := rfl
@[simp] theorem finishSetup_dispProc (rate : BitVec 24) (s : State) :
    (finishSetup rate s).dispProc = s.dispProc := rfl
@[simp] theorem finishSetup_rxFlags (rate : BitVec 24) (s : State) : (finishSetup rate s).rxFlags = s.rxFlags := rfl
@[simp] theorem finishSetup_rxIrqEn (rate : BitVec 24) (s : State) : (finishSetup rate s).rxIrqEn = s.rxIrqEn := rfl
@[simp] theorem finishSetup_rxEn (rate : BitVec 24) (s : State) : (finishSetup rate s).rxEn = s.rxEn := rfl
@[simp] theorem finishSetup_rxNdtr (rate : BitVec 24) (s : State) : (finishSetup rate s).rxNdtr = s.rxNdtr := rfl
@[simp] theorem finishSetup_rxCfg (rate : BitVec 24) (s : State) : (finishSetup rate s).rxCfg = s.rxCfg := rfl
@[simp] theorem finishSetup_txFlags (rate : BitVec 24) (s : State) : (finishSetup rate s).txFlags = s.txFlags := rfl
@[simp] theorem finishSetup_txIrqEn (rate : BitVec 24) (s : State) : (finishSetup rate s).txIrqEn = s.txIrqEn := rfl
@[simp] theorem finishSetup_txEn (rate : BitVec 24) (s : State) : (finishSetup rate s).txEn = s.txEn := rfl
@[simp] theorem finishSetup_txNdtr (rate : BitVec 24) (s : State) : (finishSetup rate s).txNdtr = s.txNdtr := rfl
@[simp] theorem finishSetup_txCfg (rate : BitVec 24) (s : State) : (finishSetup rate s).txCfg = s.txCfg := rfl
@[simp] theorem finishSetup_clocksOn (rate : BitVec 24) (s : State) :
    (finishSetup rate s).clocksOn = s.clocksOn := rfl
@[simp] theorem finishSetup_cbClkOn (rate : BitVec 24) (s : State) : (finishSetup rate s).cbClkOn = s.cbClkOn := rfl
@[simp] theorem finishSetup_pllLocked (rate : BitVec 24) (s : State) :
    (finishSetup rate s).pllLocked = s.pllLocked := rfl
@[simp] theorem finishSetup_busEn (rate : BitVec 24) (s : State) : (finishSetup rate s).busEn = s.busEn := rfl
@[simp] theorem finishSetup_extRxEn (rate : BitVec 24) (s : State) : (finishSetup rate s).extRxEn = s.extRxEn := rfl
@[simp] theorem finishSetup_wsLine (rate : BitVec 24) (s : State) : (finishSetup rate s).wsLine = s.wsLine := rfl
@[simp] theorem finishSetup_feStatus (rate : BitVec 24) (s : State) :
    (finishSetup rate s).feStatus = s.feStatus := rfl
@[simp] theorem finishSetup_rxLineEn (rate : BitVec 24) (s : State) :
    (finishSetup rate s).rxLineEn = s.rxLineEn := rfl
@[simp] theorem finishSetup_txLineEn (rate : BitVec 24) (s : State) :
    (finishSetup rate s).txLineEn = s.txLineEn := rfl
@[simp] theorem finishSetup_feLineEn (rate : BitVec 24) (s : State) :
    (finishSetup rate s).feLineEn = s.feLineEn := rfl
@[simp] theorem finishSetup_cfgValid (rate : BitVec 24) (s : State) : (finishSetup rate s).cfgValid = true := rfl
@[simp] theorem finishSetup_cfgRate (rate : BitVec 24) (s : State) : (finishSetup rate s).cfgRate = rate := rfl
@[simp] theorem finishSetup_cfgClk (rate : BitVec 24) (s : State) : (finishSetup rate s).cfgClk = s.cfgClk := rfl
@[simp] theorem finishSetup_bufsInit (rate : BitVec 24) (s : State) :
    (finishSetup rate s).bufsInit = s.bufsInit := rfl
@[simp] theorem finishSetup_cbWait (rate : BitVec 24) (s : State) : (finishSetup rate s).cbWait = s.cbWait := rfl
@[simp] theorem finishSetup_cbSr (rate : BitVec 24) (s : State) : (finishSetup rate s).cbSr = s.cbSr := rfl
@[simp] theorem finishSetup_cbRxByte (rate : BitVec 24) (s : State) :
    (finishSetup rate s).cbRxByte = s.cbRxByte := rfl
@[simp] theorem finishSetup_underrunFlag (rate : BitVec 24) (s : State) :
    (finishSetup rate s).underrunFlag = s.underrunFlag := rfl
@[simp] theorem finishSetup_underrunCount (rate : BitVec 24) (s : State) :
    (finishSetup rate s).underrunCount = s.underrunCount := rfl
@[simp] theorem finishSetup_teCount (rate : BitVec 24) (s : State) : (finishSetup rate s).teCount = s.teCount := rfl
@[simp] theorem finishSetup_dmeCount (rate : BitVec 24) (s : State) :
    (finishSetup rate s).dmeCount = s.dmeCount := rfl
@[simp] theorem finishSetup_recoveryCount (rate : BitVec 24) (s : State) :
    (finishSetup rate s).recoveryCount = s.recoveryCount := rfl
@[simp] theorem finishSetup_recoveryFailCount (rate : BitVec 24) (s : State) :
    (finishSetup rate s).recoveryFailCount = s.recoveryFailCount := rfl
@[simp] theorem finishSetup_callbackCount (rate : BitVec 24) (s : State) :
    (finishSetup rate s).callbackCount = s.callbackCount := rfl
@[simp] theorem finishSetup_lastError (rate : BitVec 24) (s : State) :
    (finishSetup rate s).lastError = s.lastError := rfl
@[simp] theorem finishSetup_rxProgress (rate : BitVec 24) (s : State) :
    (finishSetup rate s).rxProgress = s.rxProgress := rfl
@[simp] theorem finishSetup_txProgress (rate : BitVec 24) (s : State) :
    (finishSetup rate s).txProgress = s.txProgress := rfl
@[simp] theorem finishSetup_lastProgress (rate : BitVec 24) (s : State) :
    (finishSetup rate s).lastProgress = s.lastProgress := rfl
@[simp] theorem finishSetup_mem (rate : BitVec 24) (s : State) : (finishSetup rate s).mem = s.mem := rfl
@[simp] theorem finishSetup_cbTrace (rate : BitVec 24) (s : State) : (finishSetup rate s).cbTrace = s.cbTrace := rfl
@[simp] theorem finishSetup_txTrace (rate : BitVec 24) (s : State) : (finishSetup rate s).txTrace = s.txTrace := rfl
@[simp] theorem finishSetup_rxTrace (rate : BitVec 24) (s : State) : (finishSetup rate s).rxTrace = s.rxTrace := rfl
@[simp] theorem finishSetup_callTrace (rate : BitVec 24) (s : State) :
    (finishSetup rate s).callTrace = s.callTrace := rfl
@[simp] theorem finishSetup_inputs (rate : BitVec 24) (s : State) : (finishSetup rate s).inputs = s.inputs := rfl
@[simp] theorem finishSetup_tick (rate : BitVec 24) (s : State) : (finishSetup rate s).tick = s.tick := rfl

@[simp] theorem armStream_params (s : State) : (armStream s).params = s.params := rfl
@[simp] theorem armStream_cmd (s : State) : (armStream s).cmd = s.cmd := rfl
@[simp] theorem armStream_rspErr (s : State) : (armStream s).rspErr = s.rspErr := rfl
@[simp] theorem armStream_rspData (s : State) : (armStream s).rspData = s.rspData := rfl
@[simp] theorem armStream_fgBusy (s : State) : (armStream s).fgBusy = s.fgBusy := rfl
@[simp] theorem armStream_fgProc (s : State) : (armStream s).fgProc = s.fgProc := rfl
@[simp] theorem armStream_runState (s : State) : (armStream s).runState = s.runState := rfl
@[simp] theorem armStream_recState (s : State) : (armStream s).recState = s.recState := rfl
@[simp] theorem armStream_readyHalf (s : State) : (armStream s).readyHalf = 1 := rfl
@[simp] theorem armStream_dispPhase (s : State) : (armStream s).dispPhase = s.dispPhase := rfl
@[simp] theorem armStream_dispBlock (s : State) : (armStream s).dispBlock = s.dispBlock := rfl
@[simp] theorem armStream_dispHalf (s : State) : (armStream s).dispHalf = s.dispHalf := rfl
@[simp] theorem armStream_dispProc (s : State) : (armStream s).dispProc = s.dispProc := rfl
@[simp] theorem armStream_rxFlags (s : State) :
    (armStream s).rxFlags = { ht := false, tc := false, te := false, dme := false } := rfl
@[simp] theorem armStream_rxIrqEn (s : State) : (armStream s).rxIrqEn = s.rxIrqEn := rfl
@[simp] theorem armStream_rxEn (s : State) : (armStream s).rxEn = true := rfl
@[simp] theorem armStream_rxNdtr (s : State) : (armStream s).rxNdtr = BitVec.ofNat 16 s.params.nRx := rfl
@[simp] theorem armStream_rxCfg (s : State) : (armStream s).rxCfg = s.rxCfg := rfl
@[simp] theorem armStream_txFlags (s : State) : (armStream s).txFlags = { te := false, dme := false } := rfl
@[simp] theorem armStream_txIrqEn (s : State) : (armStream s).txIrqEn = s.txIrqEn := rfl
@[simp] theorem armStream_txEn (s : State) : (armStream s).txEn = true := rfl
@[simp] theorem armStream_txNdtr (s : State) : (armStream s).txNdtr = BitVec.ofNat 16 s.params.nTx := rfl
@[simp] theorem armStream_txCfg (s : State) : (armStream s).txCfg = s.txCfg := rfl
@[simp] theorem armStream_clocksOn (s : State) : (armStream s).clocksOn = true := rfl
@[simp] theorem armStream_cbClkOn (s : State) : (armStream s).cbClkOn = s.cbClkOn := rfl
@[simp] theorem armStream_pllLocked (s : State) : (armStream s).pllLocked = s.pllLocked := rfl
@[simp] theorem armStream_busEn (s : State) : (armStream s).busEn = true := rfl
@[simp] theorem armStream_extRxEn (s : State) : (armStream s).extRxEn = s.extRxEn := rfl
@[simp] theorem armStream_wsLine (s : State) : (armStream s).wsLine = s.wsLine := rfl
@[simp] theorem armStream_feStatus (s : State) : (armStream s).feStatus = s.feStatus := rfl
@[simp] theorem armStream_rxLineEn (s : State) : (armStream s).rxLineEn = s.rxLineEn := rfl
@[simp] theorem armStream_txLineEn (s : State) : (armStream s).txLineEn = s.txLineEn := rfl
@[simp] theorem armStream_feLineEn (s : State) : (armStream s).feLineEn = s.feLineEn := rfl
@[simp] theorem armStream_cfgValid (s : State) : (armStream s).cfgValid = s.cfgValid := rfl
@[simp] theorem armStream_cfgRate (s : State) : (armStream s).cfgRate = s.cfgRate := rfl
@[simp] theorem armStream_cfgClk (s : State) : (armStream s).cfgClk = s.cfgClk := rfl
@[simp] theorem armStream_bufsInit (s : State) : (armStream s).bufsInit = s.bufsInit := rfl
@[simp] theorem armStream_cbWait (s : State) : (armStream s).cbWait = s.cbWait := rfl
@[simp] theorem armStream_cbSr (s : State) : (armStream s).cbSr = s.cbSr := rfl
@[simp] theorem armStream_cbRxByte (s : State) : (armStream s).cbRxByte = s.cbRxByte := rfl
@[simp] theorem armStream_underrunFlag (s : State) : (armStream s).underrunFlag = s.underrunFlag := rfl
@[simp] theorem armStream_underrunCount (s : State) : (armStream s).underrunCount = s.underrunCount := rfl
@[simp] theorem armStream_teCount (s : State) : (armStream s).teCount = s.teCount := rfl
@[simp] theorem armStream_dmeCount (s : State) : (armStream s).dmeCount = s.dmeCount := rfl
@[simp] theorem armStream_recoveryCount (s : State) : (armStream s).recoveryCount = s.recoveryCount := rfl
@[simp] theorem armStream_recoveryFailCount (s : State) : (armStream s).recoveryFailCount = s.recoveryFailCount := rfl
@[simp] theorem armStream_callbackCount (s : State) : (armStream s).callbackCount = s.callbackCount := rfl
@[simp] theorem armStream_lastError (s : State) : (armStream s).lastError = s.lastError := rfl
@[simp] theorem armStream_rxProgress (s : State) : (armStream s).rxProgress = 0 := rfl
@[simp] theorem armStream_txProgress (s : State) : (armStream s).txProgress = 0 := rfl
@[simp] theorem armStream_lastProgress (s : State) : (armStream s).lastProgress = 0 := rfl
@[simp] theorem armStream_mem (s : State) : (armStream s).mem = s.mem := rfl
@[simp] theorem armStream_cbTrace (s : State) : (armStream s).cbTrace = s.cbTrace := rfl
@[simp] theorem armStream_txTrace (s : State) : (armStream s).txTrace = s.txTrace := rfl
@[simp] theorem armStream_rxTrace (s : State) : (armStream s).rxTrace = s.rxTrace := rfl
@[simp] theorem armStream_callTrace (s : State) : (armStream s).callTrace = s.callTrace := rfl
@[simp] theorem armStream_inputs (s : State) : (armStream s).inputs = s.inputs := rfl
@[simp] theorem armStream_tick (s : State) : (armStream s).tick = s.tick := rfl

@[simp] theorem openStream_params (s : State) : (openStream s).params = s.params := rfl
@[simp] theorem openStream_cmd (s : State) : (openStream s).cmd = s.cmd := rfl
@[simp] theorem openStream_rspErr (s : State) : (openStream s).rspErr = s.rspErr := rfl
@[simp] theorem openStream_rspData (s : State) : (openStream s).rspData = s.rspData := rfl
@[simp] theorem openStream_fgBusy (s : State) : (openStream s).fgBusy = s.fgBusy := rfl
@[simp] theorem openStream_fgProc (s : State) : (openStream s).fgProc = s.fgProc := rfl
@[simp] theorem openStream_runState (s : State) : (openStream s).runState = .running := rfl
@[simp] theorem openStream_recState (s : State) : (openStream s).recState = s.recState := rfl
@[simp] theorem openStream_readyHalf (s : State) : (openStream s).readyHalf = s.readyHalf := rfl
@[simp] theorem openStream_dispPhase (s : State) : (openStream s).dispPhase = s.dispPhase := rfl
@[simp] theorem openStream_dispBlock (s : State) : (openStream s).dispBlock = s.dispBlock := rfl
@[simp] theorem openStream_dispHalf (s : State) : (openStream s).dispHalf = s.dispHalf := rfl
@[simp] theorem openStream_dispProc (s : State) : (openStream s).dispProc = s.dispProc := rfl
@[simp] theorem openStream_rxFlags (s : State) : (openStream s).rxFlags = s.rxFlags := rfl
@[simp] theorem openStream_rxIrqEn (s : State) : (openStream s).rxIrqEn = s.rxIrqEn := rfl
@[simp] theorem openStream_rxEn (s : State) : (openStream s).rxEn = s.rxEn := rfl
@[simp] theorem openStream_rxNdtr (s : State) : (openStream s).rxNdtr = s.rxNdtr := rfl
@[simp] theorem openStream_rxCfg (s : State) : (openStream s).rxCfg = s.rxCfg := rfl
@[simp] theorem openStream_txFlags (s : State) : (openStream s).txFlags = s.txFlags := rfl
@[simp] theorem openStream_txIrqEn (s : State) : (openStream s).txIrqEn = s.txIrqEn := rfl
@[simp] theorem openStream_txEn (s : State) : (openStream s).txEn = s.txEn := rfl
@[simp] theorem openStream_txNdtr (s : State) : (openStream s).txNdtr = s.txNdtr := rfl
@[simp] theorem openStream_txCfg (s : State) : (openStream s).txCfg = s.txCfg := rfl
@[simp] theorem openStream_clocksOn (s : State) : (openStream s).clocksOn = s.clocksOn := rfl
@[simp] theorem openStream_cbClkOn (s : State) : (openStream s).cbClkOn = s.cbClkOn := rfl
@[simp] theorem openStream_pllLocked (s : State) : (openStream s).pllLocked = s.pllLocked := rfl
@[simp] theorem openStream_busEn (s : State) : (openStream s).busEn = s.busEn := rfl
@[simp] theorem openStream_extRxEn (s : State) : (openStream s).extRxEn = true := rfl
@[simp] theorem openStream_wsLine (s : State) : (openStream s).wsLine = s.wsLine := rfl
@[simp] theorem openStream_feStatus (s : State) : (openStream s).feStatus = s.feStatus := rfl
@[simp] theorem openStream_rxLineEn (s : State) : (openStream s).rxLineEn = true := rfl
@[simp] theorem openStream_txLineEn (s : State) : (openStream s).txLineEn = true := rfl
@[simp] theorem openStream_feLineEn (s : State) : (openStream s).feLineEn = true := rfl
@[simp] theorem openStream_cfgValid (s : State) : (openStream s).cfgValid = s.cfgValid := rfl
@[simp] theorem openStream_cfgRate (s : State) : (openStream s).cfgRate = s.cfgRate := rfl
@[simp] theorem openStream_cfgClk (s : State) : (openStream s).cfgClk = s.cfgClk := rfl
@[simp] theorem openStream_bufsInit (s : State) : (openStream s).bufsInit = s.bufsInit := rfl
@[simp] theorem openStream_cbWait (s : State) : (openStream s).cbWait = s.cbWait := rfl
@[simp] theorem openStream_cbSr (s : State) : (openStream s).cbSr = s.cbSr := rfl
@[simp] theorem openStream_cbRxByte (s : State) : (openStream s).cbRxByte = s.cbRxByte := rfl
@[simp] theorem openStream_underrunFlag (s : State) : (openStream s).underrunFlag = s.underrunFlag := rfl
@[simp] theorem openStream_underrunCount (s : State) : (openStream s).underrunCount = s.underrunCount := rfl
@[simp] theorem openStream_teCount (s : State) : (openStream s).teCount = s.teCount := rfl
@[simp] theorem openStream_dmeCount (s : State) : (openStream s).dmeCount = s.dmeCount := rfl
@[simp] theorem openStream_recoveryCount (s : State) : (openStream s).recoveryCount = s.recoveryCount := rfl
@[simp] theorem openStream_recoveryFailCount (s : State) :
    (openStream s).recoveryFailCount = s.recoveryFailCount := rfl
@[simp] theorem openStream_callbackCount (s : State) : (openStream s).callbackCount = s.callbackCount := rfl
@[simp] theorem openStream_lastError (s : State) : (openStream s).lastError = s.lastError := rfl
@[simp] theorem openStream_rxProgress (s : State) : (openStream s).rxProgress = s.rxProgress := rfl
@[simp] theorem openStream_txProgress (s : State) : (openStream s).txProgress = s.txProgress := rfl
@[simp] theorem openStream_lastProgress (s : State) : (openStream s).lastProgress = s.lastProgress := rfl
@[simp] theorem openStream_mem (s : State) : (openStream s).mem = s.mem := rfl
@[simp] theorem openStream_cbTrace (s : State) : (openStream s).cbTrace = s.cbTrace := rfl
@[simp] theorem openStream_txTrace (s : State) : (openStream s).txTrace = s.txTrace := rfl
@[simp] theorem openStream_rxTrace (s : State) : (openStream s).rxTrace = s.rxTrace := rfl
@[simp] theorem openStream_callTrace (s : State) : (openStream s).callTrace = s.callTrace := rfl
@[simp] theorem openStream_inputs (s : State) : (openStream s).inputs = s.inputs := rfl
@[simp] theorem openStream_tick (s : State) : (openStream s).tick = s.tick := rfl

@[simp] theorem doDisable_params (s : State) : (doDisable s).params = s.params := rfl
@[simp] theorem doDisable_cmd (s : State) : (doDisable s).cmd = s.cmd := rfl
@[simp] theorem doDisable_rspErr (s : State) : (doDisable s).rspErr = s.rspErr := rfl
@[simp] theorem doDisable_rspData (s : State) : (doDisable s).rspData = s.rspData := rfl
@[simp] theorem doDisable_fgBusy (s : State) : (doDisable s).fgBusy = s.fgBusy := rfl
@[simp] theorem doDisable_fgProc (s : State) : (doDisable s).fgProc = s.fgProc := rfl
@[simp] theorem doDisable_runState (s : State) :
    (doDisable s).runState = if s.cfgValid then .configured else .uninitialized := rfl
@[simp] theorem doDisable_recState (s : State) :
    (doDisable s).recState = if s.recState = .frameErrorPending then .normal else s.recState := rfl
@[simp] theorem doDisable_readyHalf (s : State) : (doDisable s).readyHalf = s.readyHalf := rfl
@[simp] theorem doDisable_dispPhase (s : State) : (doDisable s).dispPhase = s.dispPhase := rfl
@[simp] theorem doDisable_dispBlock (s : State) : (doDisable s).dispBlock = s.dispBlock := rfl
@[simp] theorem doDisable_dispHalf (s : State) : (doDisable s).dispHalf = s.dispHalf := rfl
@[simp] theorem doDisable_dispProc (s : State) : (doDisable s).dispProc = s.dispProc := rfl
@[simp] theorem doDisable_rxFlags (s : State) :
    (doDisable s).rxFlags = { ht := false, tc := false, te := false, dme := false } := rfl
@[simp] theorem doDisable_rxIrqEn (s : State) : (doDisable s).rxIrqEn = s.rxIrqEn := rfl
@[simp] theorem doDisable_rxEn (s : State) : (doDisable s).rxEn = false := rfl
@[simp] theorem doDisable_rxNdtr (s : State) : (doDisable s).rxNdtr = s.rxNdtr := rfl
@[simp] theorem doDisable_rxCfg (s : State) : (doDisable s).rxCfg = s.rxCfg := rfl
@[simp] theorem doDisable_txFlags (s : State) : (doDisable s).txFlags = { te := false, dme := false } := rfl
@[simp] theorem doDisable_txIrqEn (s : State) : (doDisable s).txIrqEn = s.txIrqEn := rfl
@[simp] theorem doDisable_txEn (s : State) : (doDisable s).txEn = false := rfl
@[simp] theorem doDisable_txNdtr (s : State) : (doDisable s).txNdtr = s.txNdtr := rfl
@[simp] theorem doDisable_txCfg (s : State) : (doDisable s).txCfg = s.txCfg := rfl
@[simp] theorem doDisable_clocksOn (s : State) : (doDisable s).clocksOn = false := rfl
@[simp] theorem doDisable_cbClkOn (s : State) : (doDisable s).cbClkOn = s.cbClkOn := rfl
@[simp] theorem doDisable_pllLocked (s : State) : (doDisable s).pllLocked = s.pllLocked := rfl
@[simp] theorem doDisable_busEn (s : State) : (doDisable s).busEn = false := rfl
@[simp] theorem doDisable_extRxEn (s : State) : (doDisable s).extRxEn = false := rfl
@[simp] theorem doDisable_wsLine (s : State) : (doDisable s).wsLine = s.wsLine := rfl
@[simp] theorem doDisable_feStatus (s : State) : (doDisable s).feStatus = false := rfl
@[simp] theorem doDisable_rxLineEn (s : State) : (doDisable s).rxLineEn = false := rfl
@[simp] theorem doDisable_txLineEn (s : State) : (doDisable s).txLineEn = false := rfl
@[simp] theorem doDisable_feLineEn (s : State) : (doDisable s).feLineEn = false := rfl
@[simp] theorem doDisable_cfgValid (s : State) : (doDisable s).cfgValid = s.cfgValid := rfl
@[simp] theorem doDisable_cfgRate (s : State) : (doDisable s).cfgRate = s.cfgRate := rfl
@[simp] theorem doDisable_cfgClk (s : State) : (doDisable s).cfgClk = s.cfgClk := rfl
@[simp] theorem doDisable_bufsInit (s : State) : (doDisable s).bufsInit = s.bufsInit := rfl
@[simp] theorem doDisable_cbWait (s : State) : (doDisable s).cbWait = s.cbWait := rfl
@[simp] theorem doDisable_cbSr (s : State) : (doDisable s).cbSr = s.cbSr := rfl
@[simp] theorem doDisable_cbRxByte (s : State) : (doDisable s).cbRxByte = s.cbRxByte := rfl
@[simp] theorem doDisable_underrunFlag (s : State) : (doDisable s).underrunFlag = s.underrunFlag := rfl
@[simp] theorem doDisable_underrunCount (s : State) : (doDisable s).underrunCount = s.underrunCount := rfl
@[simp] theorem doDisable_teCount (s : State) : (doDisable s).teCount = s.teCount := rfl
@[simp] theorem doDisable_dmeCount (s : State) : (doDisable s).dmeCount = s.dmeCount := rfl
@[simp] theorem doDisable_recoveryCount (s : State) : (doDisable s).recoveryCount = s.recoveryCount := rfl
@[simp] theorem doDisable_recoveryFailCount (s : State) : (doDisable s).recoveryFailCount = s.recoveryFailCount := rfl
@[simp] theorem doDisable_callbackCount (s : State) : (doDisable s).callbackCount = s.callbackCount := rfl
@[simp] theorem doDisable_lastError (s : State) : (doDisable s).lastError = s.lastError := rfl
@[simp] theorem doDisable_rxProgress (s : State) : (doDisable s).rxProgress = s.rxProgress := rfl
@[simp] theorem doDisable_txProgress (s : State) : (doDisable s).txProgress = s.txProgress := rfl
@[simp] theorem doDisable_lastProgress (s : State) : (doDisable s).lastProgress = s.lastProgress := rfl
@[simp] theorem doDisable_mem (s : State) : (doDisable s).mem = s.mem := rfl
@[simp] theorem doDisable_cbTrace (s : State) : (doDisable s).cbTrace = s.cbTrace := rfl
@[simp] theorem doDisable_txTrace (s : State) : (doDisable s).txTrace = s.txTrace := rfl
@[simp] theorem doDisable_rxTrace (s : State) : (doDisable s).rxTrace = s.rxTrace := rfl
@[simp] theorem doDisable_callTrace (s : State) : (doDisable s).callTrace = s.callTrace := rfl
@[simp] theorem doDisable_inputs (s : State) : (doDisable s).inputs = s.inputs := rfl
@[simp] theorem doDisable_tick (s : State) : (doDisable s).tick = s.tick := rfl

@[simp] theorem zeroBuffers_params (s : State) : (zeroBuffers s).params = s.params := rfl
@[simp] theorem zeroBuffers_cmd (s : State) : (zeroBuffers s).cmd = s.cmd := rfl
@[simp] theorem zeroBuffers_rspErr (s : State) : (zeroBuffers s).rspErr = s.rspErr := rfl
@[simp] theorem zeroBuffers_rspData (s : State) : (zeroBuffers s).rspData = s.rspData := rfl
@[simp] theorem zeroBuffers_fgBusy (s : State) : (zeroBuffers s).fgBusy = s.fgBusy := rfl
@[simp] theorem zeroBuffers_fgProc (s : State) : (zeroBuffers s).fgProc = s.fgProc := rfl
@[simp] theorem zeroBuffers_runState (s : State) : (zeroBuffers s).runState = s.runState := rfl
@[simp] theorem zeroBuffers_recState (s : State) : (zeroBuffers s).recState = s.recState := rfl
@[simp] theorem zeroBuffers_readyHalf (s : State) : (zeroBuffers s).readyHalf = s.readyHalf := rfl
@[simp] theorem zeroBuffers_dispPhase (s : State) : (zeroBuffers s).dispPhase = s.dispPhase := rfl
@[simp] theorem zeroBuffers_dispBlock (s : State) : (zeroBuffers s).dispBlock = s.dispBlock := rfl
@[simp] theorem zeroBuffers_dispHalf (s : State) : (zeroBuffers s).dispHalf = s.dispHalf := rfl
@[simp] theorem zeroBuffers_dispProc (s : State) : (zeroBuffers s).dispProc = s.dispProc := rfl
@[simp] theorem zeroBuffers_rxFlags (s : State) : (zeroBuffers s).rxFlags = s.rxFlags := rfl
@[simp] theorem zeroBuffers_rxIrqEn (s : State) : (zeroBuffers s).rxIrqEn = s.rxIrqEn := rfl
@[simp] theorem zeroBuffers_rxEn (s : State) : (zeroBuffers s).rxEn = s.rxEn := rfl
@[simp] theorem zeroBuffers_rxNdtr (s : State) : (zeroBuffers s).rxNdtr = s.rxNdtr := rfl
@[simp] theorem zeroBuffers_rxCfg (s : State) : (zeroBuffers s).rxCfg = s.rxCfg := rfl
@[simp] theorem zeroBuffers_txFlags (s : State) : (zeroBuffers s).txFlags = s.txFlags := rfl
@[simp] theorem zeroBuffers_txIrqEn (s : State) : (zeroBuffers s).txIrqEn = s.txIrqEn := rfl
@[simp] theorem zeroBuffers_txEn (s : State) : (zeroBuffers s).txEn = s.txEn := rfl
@[simp] theorem zeroBuffers_txNdtr (s : State) : (zeroBuffers s).txNdtr = s.txNdtr := rfl
@[simp] theorem zeroBuffers_txCfg (s : State) : (zeroBuffers s).txCfg = s.txCfg := rfl
@[simp] theorem zeroBuffers_clocksOn (s : State) : (zeroBuffers s).clocksOn = s.clocksOn := rfl
@[simp] theorem zeroBuffers_cbClkOn (s : State) : (zeroBuffers s).cbClkOn = s.cbClkOn := rfl
@[simp] theorem zeroBuffers_pllLocked (s : State) : (zeroBuffers s).pllLocked = s.pllLocked := rfl
@[simp] theorem zeroBuffers_busEn (s : State) : (zeroBuffers s).busEn = s.busEn := rfl
@[simp] theorem zeroBuffers_extRxEn (s : State) : (zeroBuffers s).extRxEn = s.extRxEn := rfl
@[simp] theorem zeroBuffers_wsLine (s : State) : (zeroBuffers s).wsLine = s.wsLine := rfl
@[simp] theorem zeroBuffers_feStatus (s : State) : (zeroBuffers s).feStatus = s.feStatus := rfl
@[simp] theorem zeroBuffers_rxLineEn (s : State) : (zeroBuffers s).rxLineEn = s.rxLineEn := rfl
@[simp] theorem zeroBuffers_txLineEn (s : State) : (zeroBuffers s).txLineEn = s.txLineEn := rfl
@[simp] theorem zeroBuffers_feLineEn (s : State) : (zeroBuffers s).feLineEn = s.feLineEn := rfl
@[simp] theorem zeroBuffers_cfgValid (s : State) : (zeroBuffers s).cfgValid = s.cfgValid := rfl
@[simp] theorem zeroBuffers_cfgRate (s : State) : (zeroBuffers s).cfgRate = s.cfgRate := rfl
@[simp] theorem zeroBuffers_cfgClk (s : State) : (zeroBuffers s).cfgClk = s.cfgClk := rfl
@[simp] theorem zeroBuffers_bufsInit (s : State) : (zeroBuffers s).bufsInit = true := rfl
@[simp] theorem zeroBuffers_cbWait (s : State) : (zeroBuffers s).cbWait = s.cbWait := rfl
@[simp] theorem zeroBuffers_cbSr (s : State) : (zeroBuffers s).cbSr = s.cbSr := rfl
@[simp] theorem zeroBuffers_cbRxByte (s : State) : (zeroBuffers s).cbRxByte = s.cbRxByte := rfl
@[simp] theorem zeroBuffers_underrunFlag (s : State) : (zeroBuffers s).underrunFlag = s.underrunFlag := rfl
@[simp] theorem zeroBuffers_underrunCount (s : State) : (zeroBuffers s).underrunCount = s.underrunCount := rfl
@[simp] theorem zeroBuffers_teCount (s : State) : (zeroBuffers s).teCount = s.teCount := rfl
@[simp] theorem zeroBuffers_dmeCount (s : State) : (zeroBuffers s).dmeCount = s.dmeCount := rfl
@[simp] theorem zeroBuffers_recoveryCount (s : State) : (zeroBuffers s).recoveryCount = s.recoveryCount := rfl
@[simp] theorem zeroBuffers_recoveryFailCount (s : State) :
    (zeroBuffers s).recoveryFailCount = s.recoveryFailCount := rfl
@[simp] theorem zeroBuffers_callbackCount (s : State) : (zeroBuffers s).callbackCount = s.callbackCount := rfl
@[simp] theorem zeroBuffers_lastError (s : State) : (zeroBuffers s).lastError = s.lastError := rfl
@[simp] theorem zeroBuffers_rxProgress (s : State) : (zeroBuffers s).rxProgress = s.rxProgress := rfl
@[simp] theorem zeroBuffers_txProgress (s : State) : (zeroBuffers s).txProgress = s.txProgress := rfl
@[simp] theorem zeroBuffers_lastProgress (s : State) : (zeroBuffers s).lastProgress = s.lastProgress := rfl
@[simp] theorem zeroBuffers_mem (s : State) :
    (zeroBuffers s).mem = zeroItems s.params.txBase s.params.nTx (zeroItems s.params.rxBase s.params.nRx s.mem) := rfl
@[simp] theorem zeroBuffers_cbTrace (s : State) : (zeroBuffers s).cbTrace = s.cbTrace := rfl
@[simp] theorem zeroBuffers_txTrace (s : State) : (zeroBuffers s).txTrace = s.txTrace := rfl
@[simp] theorem zeroBuffers_rxTrace (s : State) : (zeroBuffers s).rxTrace = s.rxTrace := rfl
@[simp] theorem zeroBuffers_callTrace (s : State) : (zeroBuffers s).callTrace = s.callTrace := rfl
@[simp] theorem zeroBuffers_inputs (s : State) : (zeroBuffers s).inputs = s.inputs := rfl
@[simp] theorem zeroBuffers_tick (s : State) : (zeroBuffers s).tick = s.tick := rfl

@[simp] theorem cbRequest_params (x : CbPhase) (sym : Option BusSymbol) (s : State) :
    (cbRequest x sym s).params = s.params := rfl
@[simp] theorem cbRequest_cmd (x : CbPhase) (sym : Option BusSymbol) (s : State) :
    (cbRequest x sym s).cmd = s.cmd := rfl
@[simp] theorem cbRequest_rspErr (x : CbPhase) (sym : Option BusSymbol) (s : State) :
    (cbRequest x sym s).rspErr = s.rspErr := rfl
@[simp] theorem cbRequest_rspData (x : CbPhase) (sym : Option BusSymbol) (s : State) :
    (cbRequest x sym s).rspData = s.rspData := rfl
@[simp] theorem cbRequest_fgBusy (x : CbPhase) (sym : Option BusSymbol) (s : State) :
    (cbRequest x sym s).fgBusy = s.fgBusy := rfl
@[simp] theorem cbRequest_fgProc (x : CbPhase) (sym : Option BusSymbol) (s : State) :
    (cbRequest x sym s).fgProc = s.fgProc := rfl
@[simp] theorem cbRequest_runState (x : CbPhase) (sym : Option BusSymbol) (s : State) :
    (cbRequest x sym s).runState = s.runState := rfl
@[simp] theorem cbRequest_recState (x : CbPhase) (sym : Option BusSymbol) (s : State) :
    (cbRequest x sym s).recState = s.recState := rfl
@[simp] theorem cbRequest_readyHalf (x : CbPhase) (sym : Option BusSymbol) (s : State) :
    (cbRequest x sym s).readyHalf = s.readyHalf := rfl
@[simp] theorem cbRequest_dispPhase (x : CbPhase) (sym : Option BusSymbol) (s : State) :
    (cbRequest x sym s).dispPhase = s.dispPhase := rfl
@[simp] theorem cbRequest_dispBlock (x : CbPhase) (sym : Option BusSymbol) (s : State) :
    (cbRequest x sym s).dispBlock = s.dispBlock := rfl
@[simp] theorem cbRequest_dispHalf (x : CbPhase) (sym : Option BusSymbol) (s : State) :
    (cbRequest x sym s).dispHalf = s.dispHalf := rfl
@[simp] theorem cbRequest_dispProc (x : CbPhase) (sym : Option BusSymbol) (s : State) :
    (cbRequest x sym s).dispProc = s.dispProc := rfl
@[simp] theorem cbRequest_rxFlags (x : CbPhase) (sym : Option BusSymbol) (s : State) :
    (cbRequest x sym s).rxFlags = s.rxFlags := rfl
@[simp] theorem cbRequest_rxIrqEn (x : CbPhase) (sym : Option BusSymbol) (s : State) :
    (cbRequest x sym s).rxIrqEn = s.rxIrqEn := rfl
@[simp] theorem cbRequest_rxEn (x : CbPhase) (sym : Option BusSymbol) (s : State) :
    (cbRequest x sym s).rxEn = s.rxEn := rfl
@[simp] theorem cbRequest_rxNdtr (x : CbPhase) (sym : Option BusSymbol) (s : State) :
    (cbRequest x sym s).rxNdtr = s.rxNdtr := rfl
@[simp] theorem cbRequest_rxCfg (x : CbPhase) (sym : Option BusSymbol) (s : State) :
    (cbRequest x sym s).rxCfg = s.rxCfg := rfl
@[simp] theorem cbRequest_txFlags (x : CbPhase) (sym : Option BusSymbol) (s : State) :
    (cbRequest x sym s).txFlags = s.txFlags := rfl
@[simp] theorem cbRequest_txIrqEn (x : CbPhase) (sym : Option BusSymbol) (s : State) :
    (cbRequest x sym s).txIrqEn = s.txIrqEn := rfl
@[simp] theorem cbRequest_txEn (x : CbPhase) (sym : Option BusSymbol) (s : State) :
    (cbRequest x sym s).txEn = s.txEn := rfl
@[simp] theorem cbRequest_txNdtr (x : CbPhase) (sym : Option BusSymbol) (s : State) :
    (cbRequest x sym s).txNdtr = s.txNdtr := rfl
@[simp] theorem cbRequest_txCfg (x : CbPhase) (sym : Option BusSymbol) (s : State) :
    (cbRequest x sym s).txCfg = s.txCfg := rfl
@[simp] theorem cbRequest_clocksOn (x : CbPhase) (sym : Option BusSymbol) (s : State) :
    (cbRequest x sym s).clocksOn = s.clocksOn := rfl
@[simp] theorem cbRequest_cbClkOn (x : CbPhase) (sym : Option BusSymbol) (s : State) :
    (cbRequest x sym s).cbClkOn = s.cbClkOn := rfl
@[simp] theorem cbRequest_pllLocked (x : CbPhase) (sym : Option BusSymbol) (s : State) :
    (cbRequest x sym s).pllLocked = s.pllLocked := rfl
@[simp] theorem cbRequest_busEn (x : CbPhase) (sym : Option BusSymbol) (s : State) :
    (cbRequest x sym s).busEn = s.busEn := rfl
@[simp] theorem cbRequest_extRxEn (x : CbPhase) (sym : Option BusSymbol) (s : State) :
    (cbRequest x sym s).extRxEn = s.extRxEn := rfl
@[simp] theorem cbRequest_wsLine (x : CbPhase) (sym : Option BusSymbol) (s : State) :
    (cbRequest x sym s).wsLine = s.wsLine := rfl
@[simp] theorem cbRequest_feStatus (x : CbPhase) (sym : Option BusSymbol) (s : State) :
    (cbRequest x sym s).feStatus = s.feStatus := rfl
@[simp] theorem cbRequest_rxLineEn (x : CbPhase) (sym : Option BusSymbol) (s : State) :
    (cbRequest x sym s).rxLineEn = s.rxLineEn := rfl
@[simp] theorem cbRequest_txLineEn (x : CbPhase) (sym : Option BusSymbol) (s : State) :
    (cbRequest x sym s).txLineEn = s.txLineEn := rfl
@[simp] theorem cbRequest_feLineEn (x : CbPhase) (sym : Option BusSymbol) (s : State) :
    (cbRequest x sym s).feLineEn = s.feLineEn := rfl
@[simp] theorem cbRequest_cfgValid (x : CbPhase) (sym : Option BusSymbol) (s : State) :
    (cbRequest x sym s).cfgValid = s.cfgValid := rfl
@[simp] theorem cbRequest_cfgRate (x : CbPhase) (sym : Option BusSymbol) (s : State) :
    (cbRequest x sym s).cfgRate = s.cfgRate := rfl
@[simp] theorem cbRequest_cfgClk (x : CbPhase) (sym : Option BusSymbol) (s : State) :
    (cbRequest x sym s).cfgClk = s.cfgClk := rfl
@[simp] theorem cbRequest_bufsInit (x : CbPhase) (sym : Option BusSymbol) (s : State) :
    (cbRequest x sym s).bufsInit = s.bufsInit := rfl
@[simp] theorem cbRequest_cbWait (x : CbPhase) (sym : Option BusSymbol) (s : State) :
    (cbRequest x sym s).cbWait = some x := rfl
@[simp] theorem cbRequest_cbSr (x : CbPhase) (sym : Option BusSymbol) (s : State) :
    (cbRequest x sym s).cbSr = cbFlagClear s.cbSr x := rfl
@[simp] theorem cbRequest_cbRxByte (x : CbPhase) (sym : Option BusSymbol) (s : State) :
    (cbRequest x sym s).cbRxByte = s.cbRxByte := rfl
@[simp] theorem cbRequest_underrunFlag (x : CbPhase) (sym : Option BusSymbol) (s : State) :
    (cbRequest x sym s).underrunFlag = s.underrunFlag := rfl
@[simp] theorem cbRequest_underrunCount (x : CbPhase) (sym : Option BusSymbol) (s : State) :
    (cbRequest x sym s).underrunCount = s.underrunCount := rfl
@[simp] theorem cbRequest_teCount (x : CbPhase) (sym : Option BusSymbol) (s : State) :
    (cbRequest x sym s).teCount = s.teCount := rfl
@[simp] theorem cbRequest_dmeCount (x : CbPhase) (sym : Option BusSymbol) (s : State) :
    (cbRequest x sym s).dmeCount = s.dmeCount := rfl
@[simp] theorem cbRequest_recoveryCount (x : CbPhase) (sym : Option BusSymbol) (s : State) :
    (cbRequest x sym s).recoveryCount = s.recoveryCount := rfl
@[simp] theorem cbRequest_recoveryFailCount (x : CbPhase) (sym : Option BusSymbol) (s : State) :
    (cbRequest x sym s).recoveryFailCount = s.recoveryFailCount := rfl
@[simp] theorem cbRequest_callbackCount (x : CbPhase) (sym : Option BusSymbol) (s : State) :
    (cbRequest x sym s).callbackCount = s.callbackCount := rfl
@[simp] theorem cbRequest_lastError (x : CbPhase) (sym : Option BusSymbol) (s : State) :
    (cbRequest x sym s).lastError = s.lastError := rfl
@[simp] theorem cbRequest_rxProgress (x : CbPhase) (sym : Option BusSymbol) (s : State) :
    (cbRequest x sym s).rxProgress = s.rxProgress := rfl
@[simp] theorem cbRequest_txProgress (x : CbPhase) (sym : Option BusSymbol) (s : State) :
    (cbRequest x sym s).txProgress = s.txProgress := rfl
@[simp] theorem cbRequest_lastProgress (x : CbPhase) (sym : Option BusSymbol) (s : State) :
    (cbRequest x sym s).lastProgress = s.lastProgress := rfl
@[simp] theorem cbRequest_mem (x : CbPhase) (sym : Option BusSymbol) (s : State) :
    (cbRequest x sym s).mem = s.mem := rfl
@[simp] theorem cbRequest_cbTrace (x : CbPhase) (sym : Option BusSymbol) (s : State) :
    (cbRequest x sym s).cbTrace = s.cbTrace ++ sym.toList := rfl
@[simp] theorem cbRequest_txTrace (x : CbPhase) (sym : Option BusSymbol) (s : State) :
    (cbRequest x sym s).txTrace = s.txTrace := rfl
@[simp] theorem cbRequest_rxTrace (x : CbPhase) (sym : Option BusSymbol) (s : State) :
    (cbRequest x sym s).rxTrace = s.rxTrace := rfl
@[simp] theorem cbRequest_callTrace (x : CbPhase) (sym : Option BusSymbol) (s : State) :
    (cbRequest x sym s).callTrace = s.callTrace := rfl
@[simp] theorem cbRequest_inputs (x : CbPhase) (sym : Option BusSymbol) (s : State) :
    (cbRequest x sym s).inputs = s.inputs := rfl
@[simp] theorem cbRequest_tick (x : CbPhase) (sym : Option BusSymbol) (s : State) :
    (cbRequest x sym s).tick = s.tick := rfl

@[simp] theorem cbIdle_params (s : State) : (cbIdle s).params = s.params := rfl
@[simp] theorem cbIdle_cmd (s : State) : (cbIdle s).cmd = s.cmd := rfl
@[simp] theorem cbIdle_rspErr (s : State) : (cbIdle s).rspErr = s.rspErr := rfl
@[simp] theorem cbIdle_rspData (s : State) : (cbIdle s).rspData = s.rspData := rfl
@[simp] theorem cbIdle_fgBusy (s : State) : (cbIdle s).fgBusy = s.fgBusy := rfl
@[simp] theorem cbIdle_fgProc (s : State) : (cbIdle s).fgProc = s.fgProc := rfl
@[simp] theorem cbIdle_runState (s : State) : (cbIdle s).runState = s.runState := rfl
@[simp] theorem cbIdle_recState (s : State) : (cbIdle s).recState = s.recState := rfl
@[simp] theorem cbIdle_readyHalf (s : State) : (cbIdle s).readyHalf = s.readyHalf := rfl
@[simp] theorem cbIdle_dispPhase (s : State) : (cbIdle s).dispPhase = s.dispPhase := rfl
@[simp] theorem cbIdle_dispBlock (s : State) : (cbIdle s).dispBlock = s.dispBlock := rfl
@[simp] theorem cbIdle_dispHalf (s : State) : (cbIdle s).dispHalf = s.dispHalf := rfl
@[simp] theorem cbIdle_dispProc (s : State) : (cbIdle s).dispProc = s.dispProc := rfl
@[simp] theorem cbIdle_rxFlags (s : State) : (cbIdle s).rxFlags = s.rxFlags := rfl
@[simp] theorem cbIdle_rxIrqEn (s : State) : (cbIdle s).rxIrqEn = s.rxIrqEn := rfl
@[simp] theorem cbIdle_rxEn (s : State) : (cbIdle s).rxEn = s.rxEn := rfl
@[simp] theorem cbIdle_rxNdtr (s : State) : (cbIdle s).rxNdtr = s.rxNdtr := rfl
@[simp] theorem cbIdle_rxCfg (s : State) : (cbIdle s).rxCfg = s.rxCfg := rfl
@[simp] theorem cbIdle_txFlags (s : State) : (cbIdle s).txFlags = s.txFlags := rfl
@[simp] theorem cbIdle_txIrqEn (s : State) : (cbIdle s).txIrqEn = s.txIrqEn := rfl
@[simp] theorem cbIdle_txEn (s : State) : (cbIdle s).txEn = s.txEn := rfl
@[simp] theorem cbIdle_txNdtr (s : State) : (cbIdle s).txNdtr = s.txNdtr := rfl
@[simp] theorem cbIdle_txCfg (s : State) : (cbIdle s).txCfg = s.txCfg := rfl
@[simp] theorem cbIdle_clocksOn (s : State) : (cbIdle s).clocksOn = s.clocksOn := rfl
@[simp] theorem cbIdle_cbClkOn (s : State) : (cbIdle s).cbClkOn = s.cbClkOn := rfl
@[simp] theorem cbIdle_pllLocked (s : State) : (cbIdle s).pllLocked = s.pllLocked := rfl
@[simp] theorem cbIdle_busEn (s : State) : (cbIdle s).busEn = s.busEn := rfl
@[simp] theorem cbIdle_extRxEn (s : State) : (cbIdle s).extRxEn = s.extRxEn := rfl
@[simp] theorem cbIdle_wsLine (s : State) : (cbIdle s).wsLine = s.wsLine := rfl
@[simp] theorem cbIdle_feStatus (s : State) : (cbIdle s).feStatus = s.feStatus := rfl
@[simp] theorem cbIdle_rxLineEn (s : State) : (cbIdle s).rxLineEn = s.rxLineEn := rfl
@[simp] theorem cbIdle_txLineEn (s : State) : (cbIdle s).txLineEn = s.txLineEn := rfl
@[simp] theorem cbIdle_feLineEn (s : State) : (cbIdle s).feLineEn = s.feLineEn := rfl
@[simp] theorem cbIdle_cfgValid (s : State) : (cbIdle s).cfgValid = s.cfgValid := rfl
@[simp] theorem cbIdle_cfgRate (s : State) : (cbIdle s).cfgRate = s.cfgRate := rfl
@[simp] theorem cbIdle_cfgClk (s : State) : (cbIdle s).cfgClk = s.cfgClk := rfl
@[simp] theorem cbIdle_bufsInit (s : State) : (cbIdle s).bufsInit = s.bufsInit := rfl
@[simp] theorem cbIdle_cbWait (s : State) : (cbIdle s).cbWait = none := rfl
@[simp] theorem cbIdle_cbSr (s : State) : (cbIdle s).cbSr = 0 := rfl
@[simp] theorem cbIdle_cbRxByte (s : State) : (cbIdle s).cbRxByte = s.cbRxByte := rfl
@[simp] theorem cbIdle_underrunFlag (s : State) : (cbIdle s).underrunFlag = s.underrunFlag := rfl
@[simp] theorem cbIdle_underrunCount (s : State) : (cbIdle s).underrunCount = s.underrunCount := rfl
@[simp] theorem cbIdle_teCount (s : State) : (cbIdle s).teCount = s.teCount := rfl
@[simp] theorem cbIdle_dmeCount (s : State) : (cbIdle s).dmeCount = s.dmeCount := rfl
@[simp] theorem cbIdle_recoveryCount (s : State) : (cbIdle s).recoveryCount = s.recoveryCount := rfl
@[simp] theorem cbIdle_recoveryFailCount (s : State) : (cbIdle s).recoveryFailCount = s.recoveryFailCount := rfl
@[simp] theorem cbIdle_callbackCount (s : State) : (cbIdle s).callbackCount = s.callbackCount := rfl
@[simp] theorem cbIdle_lastError (s : State) : (cbIdle s).lastError = s.lastError := rfl
@[simp] theorem cbIdle_rxProgress (s : State) : (cbIdle s).rxProgress = s.rxProgress := rfl
@[simp] theorem cbIdle_txProgress (s : State) : (cbIdle s).txProgress = s.txProgress := rfl
@[simp] theorem cbIdle_lastProgress (s : State) : (cbIdle s).lastProgress = s.lastProgress := rfl
@[simp] theorem cbIdle_mem (s : State) : (cbIdle s).mem = s.mem := rfl
@[simp] theorem cbIdle_cbTrace (s : State) : (cbIdle s).cbTrace = s.cbTrace := rfl
@[simp] theorem cbIdle_txTrace (s : State) : (cbIdle s).txTrace = s.txTrace := rfl
@[simp] theorem cbIdle_rxTrace (s : State) : (cbIdle s).rxTrace = s.rxTrace := rfl
@[simp] theorem cbIdle_callTrace (s : State) : (cbIdle s).callTrace = s.callTrace := rfl
@[simp] theorem cbIdle_inputs (s : State) : (cbIdle s).inputs = s.inputs := rfl
@[simp] theorem cbIdle_tick (s : State) : (cbIdle s).tick = s.tick := rfl

@[simp] theorem cbPhaseOk_params (g : TxnStage) (s : State) : (cbPhaseOk g s).params = s.params := rfl
@[simp] theorem cbPhaseOk_cmd (g : TxnStage) (s : State) : (cbPhaseOk g s).cmd = s.cmd := rfl
@[simp] theorem cbPhaseOk_rspErr (g : TxnStage) (s : State) : (cbPhaseOk g s).rspErr = s.rspErr := rfl
@[simp] theorem cbPhaseOk_rspData (g : TxnStage) (s : State) : (cbPhaseOk g s).rspData = s.rspData := rfl
@[simp] theorem cbPhaseOk_fgBusy (g : TxnStage) (s : State) : (cbPhaseOk g s).fgBusy = s.fgBusy := rfl
@[simp] theorem cbPhaseOk_fgProc (g : TxnStage) (s : State) : (cbPhaseOk g s).fgProc = s.fgProc := rfl
@[simp] theorem cbPhaseOk_runState (g : TxnStage) (s : State) : (cbPhaseOk g s).runState = s.runState := rfl
@[simp] theorem cbPhaseOk_recState (g : TxnStage) (s : State) : (cbPhaseOk g s).recState = s.recState := rfl
@[simp] theorem cbPhaseOk_readyHalf (g : TxnStage) (s : State) : (cbPhaseOk g s).readyHalf = s.readyHalf := rfl
@[simp] theorem cbPhaseOk_dispPhase (g : TxnStage) (s : State) : (cbPhaseOk g s).dispPhase = s.dispPhase := rfl
@[simp] theorem cbPhaseOk_dispBlock (g : TxnStage) (s : State) : (cbPhaseOk g s).dispBlock = s.dispBlock := rfl
@[simp] theorem cbPhaseOk_dispHalf (g : TxnStage) (s : State) : (cbPhaseOk g s).dispHalf = s.dispHalf := rfl
@[simp] theorem cbPhaseOk_dispProc (g : TxnStage) (s : State) : (cbPhaseOk g s).dispProc = s.dispProc := rfl
@[simp] theorem cbPhaseOk_rxFlags (g : TxnStage) (s : State) : (cbPhaseOk g s).rxFlags = s.rxFlags := rfl
@[simp] theorem cbPhaseOk_rxIrqEn (g : TxnStage) (s : State) : (cbPhaseOk g s).rxIrqEn = s.rxIrqEn := rfl
@[simp] theorem cbPhaseOk_rxEn (g : TxnStage) (s : State) : (cbPhaseOk g s).rxEn = s.rxEn := rfl
@[simp] theorem cbPhaseOk_rxNdtr (g : TxnStage) (s : State) : (cbPhaseOk g s).rxNdtr = s.rxNdtr := rfl
@[simp] theorem cbPhaseOk_rxCfg (g : TxnStage) (s : State) : (cbPhaseOk g s).rxCfg = s.rxCfg := rfl
@[simp] theorem cbPhaseOk_txFlags (g : TxnStage) (s : State) : (cbPhaseOk g s).txFlags = s.txFlags := rfl
@[simp] theorem cbPhaseOk_txIrqEn (g : TxnStage) (s : State) : (cbPhaseOk g s).txIrqEn = s.txIrqEn := rfl
@[simp] theorem cbPhaseOk_txEn (g : TxnStage) (s : State) : (cbPhaseOk g s).txEn = s.txEn := rfl
@[simp] theorem cbPhaseOk_txNdtr (g : TxnStage) (s : State) : (cbPhaseOk g s).txNdtr = s.txNdtr := rfl
@[simp] theorem cbPhaseOk_txCfg (g : TxnStage) (s : State) : (cbPhaseOk g s).txCfg = s.txCfg := rfl
@[simp] theorem cbPhaseOk_clocksOn (g : TxnStage) (s : State) : (cbPhaseOk g s).clocksOn = s.clocksOn := rfl
@[simp] theorem cbPhaseOk_cbClkOn (g : TxnStage) (s : State) : (cbPhaseOk g s).cbClkOn = s.cbClkOn := rfl
@[simp] theorem cbPhaseOk_pllLocked (g : TxnStage) (s : State) : (cbPhaseOk g s).pllLocked = s.pllLocked := rfl
@[simp] theorem cbPhaseOk_busEn (g : TxnStage) (s : State) : (cbPhaseOk g s).busEn = s.busEn := rfl
@[simp] theorem cbPhaseOk_extRxEn (g : TxnStage) (s : State) : (cbPhaseOk g s).extRxEn = s.extRxEn := rfl
@[simp] theorem cbPhaseOk_wsLine (g : TxnStage) (s : State) : (cbPhaseOk g s).wsLine = s.wsLine := rfl
@[simp] theorem cbPhaseOk_feStatus (g : TxnStage) (s : State) : (cbPhaseOk g s).feStatus = s.feStatus := rfl
@[simp] theorem cbPhaseOk_rxLineEn (g : TxnStage) (s : State) : (cbPhaseOk g s).rxLineEn = s.rxLineEn := rfl
@[simp] theorem cbPhaseOk_txLineEn (g : TxnStage) (s : State) : (cbPhaseOk g s).txLineEn = s.txLineEn := rfl
@[simp] theorem cbPhaseOk_feLineEn (g : TxnStage) (s : State) : (cbPhaseOk g s).feLineEn = s.feLineEn := rfl
@[simp] theorem cbPhaseOk_cfgValid (g : TxnStage) (s : State) : (cbPhaseOk g s).cfgValid = s.cfgValid := rfl
@[simp] theorem cbPhaseOk_cfgRate (g : TxnStage) (s : State) : (cbPhaseOk g s).cfgRate = s.cfgRate := rfl
@[simp] theorem cbPhaseOk_cfgClk (g : TxnStage) (s : State) : (cbPhaseOk g s).cfgClk = s.cfgClk := rfl
@[simp] theorem cbPhaseOk_bufsInit (g : TxnStage) (s : State) : (cbPhaseOk g s).bufsInit = s.bufsInit := rfl
@[simp] theorem cbPhaseOk_cbWait (g : TxnStage) (s : State) : (cbPhaseOk g s).cbWait = none := rfl
@[simp] theorem cbPhaseOk_cbSr (g : TxnStage) (s : State) : (cbPhaseOk g s).cbSr = s.cbSr := rfl
@[simp] theorem cbPhaseOk_cbRxByte (g : TxnStage) (s : State) : (cbPhaseOk g s).cbRxByte = s.cbRxByte := rfl
@[simp] theorem cbPhaseOk_underrunFlag (g : TxnStage) (s : State) :
    (cbPhaseOk g s).underrunFlag = s.underrunFlag := rfl
@[simp] theorem cbPhaseOk_underrunCount (g : TxnStage) (s : State) :
    (cbPhaseOk g s).underrunCount = s.underrunCount := rfl
@[simp] theorem cbPhaseOk_teCount (g : TxnStage) (s : State) : (cbPhaseOk g s).teCount = s.teCount := rfl
@[simp] theorem cbPhaseOk_dmeCount (g : TxnStage) (s : State) : (cbPhaseOk g s).dmeCount = s.dmeCount := rfl
@[simp] theorem cbPhaseOk_recoveryCount (g : TxnStage) (s : State) :
    (cbPhaseOk g s).recoveryCount = s.recoveryCount := rfl
@[simp] theorem cbPhaseOk_recoveryFailCount (g : TxnStage) (s : State) :
    (cbPhaseOk g s).recoveryFailCount = s.recoveryFailCount := rfl
@[simp] theorem cbPhaseOk_callbackCount (g : TxnStage) (s : State) :
    (cbPhaseOk g s).callbackCount = s.callbackCount := rfl
@[simp] theorem cbPhaseOk_lastError (g : TxnStage) (s : State) : (cbPhaseOk g s).lastError = s.lastError := rfl
@[simp] theorem cbPhaseOk_rxProgress (g : TxnStage) (s : State) : (cbPhaseOk g s).rxProgress = s.rxProgress := rfl
@[simp] theorem cbPhaseOk_txProgress (g : TxnStage) (s : State) : (cbPhaseOk g s).txProgress = s.txProgress := rfl
@[simp] theorem cbPhaseOk_lastProgress (g : TxnStage) (s : State) :
    (cbPhaseOk g s).lastProgress = s.lastProgress := rfl
@[simp] theorem cbPhaseOk_mem (g : TxnStage) (s : State) : (cbPhaseOk g s).mem = s.mem := rfl
@[simp] theorem cbPhaseOk_cbTrace (g : TxnStage) (s : State) :
    (cbPhaseOk g s).cbTrace = if g = .receive then s.cbTrace ++ [.rxNack s.cbRxByte] else s.cbTrace := rfl
@[simp] theorem cbPhaseOk_txTrace (g : TxnStage) (s : State) : (cbPhaseOk g s).txTrace = s.txTrace := rfl
@[simp] theorem cbPhaseOk_rxTrace (g : TxnStage) (s : State) : (cbPhaseOk g s).rxTrace = s.rxTrace := rfl
@[simp] theorem cbPhaseOk_callTrace (g : TxnStage) (s : State) : (cbPhaseOk g s).callTrace = s.callTrace := rfl
@[simp] theorem cbPhaseOk_inputs (g : TxnStage) (s : State) : (cbPhaseOk g s).inputs = s.inputs := rfl
@[simp] theorem cbPhaseOk_tick (g : TxnStage) (s : State) : (cbPhaseOk g s).tick = s.tick := rfl

@[simp] theorem rxAdvance_params (s : State) : (rxAdvance s).params = s.params := rfl
@[simp] theorem rxAdvance_cmd (s : State) : (rxAdvance s).cmd = s.cmd := rfl
@[simp] theorem rxAdvance_rspErr (s : State) : (rxAdvance s).rspErr = s.rspErr := rfl
@[simp] theorem rxAdvance_rspData (s : State) : (rxAdvance s).rspData = s.rspData := rfl
@[simp] theorem rxAdvance_fgBusy (s : State) : (rxAdvance s).fgBusy = s.fgBusy := rfl
@[simp] theorem rxAdvance_fgProc (s : State) : (rxAdvance s).fgProc = s.fgProc := rfl
@[simp] theorem rxAdvance_runState (s : State) : (rxAdvance s).runState = s.runState := rfl
@[simp] theorem rxAdvance_recState (s : State) : (rxAdvance s).recState = s.recState := rfl
@[simp] theorem rxAdvance_readyHalf (s : State) : (rxAdvance s).readyHalf = s.readyHalf := rfl
@[simp] theorem rxAdvance_dispPhase (s : State) : (rxAdvance s).dispPhase = s.dispPhase := rfl
@[simp] theorem rxAdvance_dispBlock (s : State) : (rxAdvance s).dispBlock = s.dispBlock := rfl
@[simp] theorem rxAdvance_dispHalf (s : State) : (rxAdvance s).dispHalf = s.dispHalf := rfl
@[simp] theorem rxAdvance_dispProc (s : State) : (rxAdvance s).dispProc = s.dispProc := rfl
@[simp] theorem rxAdvance_rxFlags (s : State) :
    (rxAdvance s).rxFlags = { s.rxFlags with ht := s.rxFlags.ht || decide ((s.rxNdtr - 1).toNat = s.params.nRx / 2), tc := s.rxFlags.tc || decide ((s.rxNdtr - 1) = 0) } := rfl
@[simp] theorem rxAdvance_rxIrqEn (s : State) : (rxAdvance s).rxIrqEn = s.rxIrqEn := rfl
@[simp] theorem rxAdvance_rxEn (s : State) : (rxAdvance s).rxEn = s.rxEn := rfl
@[simp] theorem rxAdvance_rxNdtr (s : State) :
    (rxAdvance s).rxNdtr = if (s.rxNdtr - 1) = 0 then BitVec.ofNat 16 s.params.nRx else (s.rxNdtr - 1) := rfl
@[simp] theorem rxAdvance_rxCfg (s : State) : (rxAdvance s).rxCfg = s.rxCfg := rfl
@[simp] theorem rxAdvance_txFlags (s : State) : (rxAdvance s).txFlags = s.txFlags := rfl
@[simp] theorem rxAdvance_txIrqEn (s : State) : (rxAdvance s).txIrqEn = s.txIrqEn := rfl
@[simp] theorem rxAdvance_txEn (s : State) : (rxAdvance s).txEn = s.txEn := rfl
@[simp] theorem rxAdvance_txNdtr (s : State) : (rxAdvance s).txNdtr = s.txNdtr := rfl
@[simp] theorem rxAdvance_txCfg (s : State) : (rxAdvance s).txCfg = s.txCfg := rfl
@[simp] theorem rxAdvance_clocksOn (s : State) : (rxAdvance s).clocksOn = s.clocksOn := rfl
@[simp] theorem rxAdvance_cbClkOn (s : State) : (rxAdvance s).cbClkOn = s.cbClkOn := rfl
@[simp] theorem rxAdvance_pllLocked (s : State) : (rxAdvance s).pllLocked = s.pllLocked := rfl
@[simp] theorem rxAdvance_busEn (s : State) : (rxAdvance s).busEn = s.busEn := rfl
@[simp] theorem rxAdvance_extRxEn (s : State) : (rxAdvance s).extRxEn = s.extRxEn := rfl
@[simp] theorem rxAdvance_wsLine (s : State) : (rxAdvance s).wsLine = s.wsLine := rfl
@[simp] theorem rxAdvance_feStatus (s : State) : (rxAdvance s).feStatus = s.feStatus := rfl
@[simp] theorem rxAdvance_rxLineEn (s : State) : (rxAdvance s).rxLineEn = s.rxLineEn := rfl
@[simp] theorem rxAdvance_txLineEn (s : State) : (rxAdvance s).txLineEn = s.txLineEn := rfl
@[simp] theorem rxAdvance_feLineEn (s : State) : (rxAdvance s).feLineEn = s.feLineEn := rfl
@[simp] theorem rxAdvance_cfgValid (s : State) : (rxAdvance s).cfgValid = s.cfgValid := rfl
@[simp] theorem rxAdvance_cfgRate (s : State) : (rxAdvance s).cfgRate = s.cfgRate := rfl
@[simp] theorem rxAdvance_cfgClk (s : State) : (rxAdvance s).cfgClk = s.cfgClk := rfl
@[simp] theorem rxAdvance_bufsInit (s : State) : (rxAdvance s).bufsInit = s.bufsInit := rfl
@[simp] theorem rxAdvance_cbWait (s : State) : (rxAdvance s).cbWait = s.cbWait := rfl
@[simp] theorem rxAdvance_cbSr (s : State) : (rxAdvance s).cbSr = s.cbSr := rfl
@[simp] theorem rxAdvance_cbRxByte (s : State) : (rxAdvance s).cbRxByte = s.cbRxByte := rfl
@[simp] theorem rxAdvance_underrunFlag (s : State) : (rxAdvance s).underrunFlag = s.underrunFlag := rfl
@[simp] theorem rxAdvance_underrunCount (s : State) : (rxAdvance s).underrunCount = s.underrunCount := rfl
@[simp] theorem rxAdvance_teCount (s : State) : (rxAdvance s).teCount = s.teCount := rfl
@[simp] theorem rxAdvance_dmeCount (s : State) : (rxAdvance s).dmeCount = s.dmeCount := rfl
@[simp] theorem rxAdvance_recoveryCount (s : State) : (rxAdvance s).recoveryCount = s.recoveryCount := rfl
@[simp] theorem rxAdvance_recoveryFailCount (s : State) : (rxAdvance s).recoveryFailCount = s.recoveryFailCount := rfl
@[simp] theorem rxAdvance_callbackCount (s : State) : (rxAdvance s).callbackCount = s.callbackCount := rfl
@[simp] theorem rxAdvance_lastError (s : State) : (rxAdvance s).lastError = s.lastError := rfl
@[simp] theorem rxAdvance_rxProgress (s : State) : (rxAdvance s).rxProgress = s.rxProgress + 1 := rfl
@[simp] theorem rxAdvance_txProgress (s : State) : (rxAdvance s).txProgress = s.txProgress := rfl
@[simp] theorem rxAdvance_lastProgress (s : State) : (rxAdvance s).lastProgress = s.lastProgress := rfl
@[simp] theorem rxAdvance_mem (s : State) : (rxAdvance s).mem = s.mem := rfl
@[simp] theorem rxAdvance_cbTrace (s : State) : (rxAdvance s).cbTrace = s.cbTrace := rfl
@[simp] theorem rxAdvance_txTrace (s : State) : (rxAdvance s).txTrace = s.txTrace := rfl
@[simp] theorem rxAdvance_rxTrace (s : State) : (rxAdvance s).rxTrace = s.rxTrace := rfl
@[simp] theorem rxAdvance_callTrace (s : State) : (rxAdvance s).callTrace = s.callTrace := rfl
@[simp] theorem rxAdvance_inputs (s : State) : (rxAdvance s).inputs = s.inputs := rfl
@[simp] theorem rxAdvance_tick (s : State) : (rxAdvance s).tick = s.tick := rfl

@[simp] theorem txAdvance_params (s : State) : (txAdvance s).params = s.params := rfl
@[simp] theorem txAdvance_cmd (s : State) : (txAdvance s).cmd = s.cmd := rfl
@[simp] theorem txAdvance_rspErr (s : State) : (txAdvance s).rspErr = s.rspErr := rfl
@[simp] theorem txAdvance_rspData (s : State) : (txAdvance s).rspData = s.rspData := rfl
@[simp] theorem txAdvance_fgBusy (s : State) : (txAdvance s).fgBusy = s.fgBusy := rfl
@[simp] theorem txAdvance_fgProc (s : State) : (txAdvance s).fgProc = s.fgProc := rfl
@[simp] theorem txAdvance_runState (s : State) : (txAdvance s).runState = s.runState := rfl
@[simp] theorem txAdvance_recState (s : State) : (txAdvance s).recState = s.recState := rfl
@[simp] theorem txAdvance_readyHalf (s : State) : (txAdvance s).readyHalf = s.readyHalf := rfl
@[simp] theorem txAdvance_dispPhase (s : State) : (txAdvance s).dispPhase = s.dispPhase := rfl
@[simp] theorem txAdvance_dispBlock (s : State) : (txAdvance s).dispBlock = s.dispBlock := rfl
@[simp] theorem txAdvance_dispHalf (s : State) : (txAdvance s).dispHalf = s.dispHalf := rfl
@[simp] theorem txAdvance_dispProc (s : State) : (txAdvance s).dispProc = s.dispProc := rfl
@[simp] theorem txAdvance_rxFlags (s : State) : (txAdvance s).rxFlags = s.rxFlags := rfl
@[simp] theorem txAdvance_rxIrqEn (s : State) : (txAdvance s).rxIrqEn = s.rxIrqEn := rfl
@[simp] theorem txAdvance_rxEn (s : State) : (txAdvance s).rxEn = s.rxEn := rfl
@[simp] theorem txAdvance_rxNdtr (s : State) : (txAdvance s).rxNdtr = s.rxNdtr := rfl
@[simp] theorem txAdvance_rxCfg (s : State) : (txAdvance s).rxCfg = s.rxCfg := rfl
@[simp] theorem txAdvance_txFlags (s : State) : (txAdvance s).txFlags = s.txFlags := rfl
@[simp] theorem txAdvance_txIrqEn (s : State) : (txAdvance s).txIrqEn = s.txIrqEn := rfl
@[simp] theorem txAdvance_txEn (s : State) : (txAdvance s).txEn = s.txEn := rfl
@[simp] theorem txAdvance_txNdtr (s : State) :
    (txAdvance s).txNdtr = if (s.txNdtr - 1) = 0 then BitVec.ofNat 16 s.params.nTx else (s.txNdtr - 1) := rfl
@[simp] theorem txAdvance_txCfg (s : State) : (txAdvance s).txCfg = s.txCfg := rfl
@[simp] theorem txAdvance_clocksOn (s : State) : (txAdvance s).clocksOn = s.clocksOn := rfl
@[simp] theorem txAdvance_cbClkOn (s : State) : (txAdvance s).cbClkOn = s.cbClkOn := rfl
@[simp] theorem txAdvance_pllLocked (s : State) : (txAdvance s).pllLocked = s.pllLocked := rfl
@[simp] theorem txAdvance_busEn (s : State) : (txAdvance s).busEn = s.busEn := rfl
@[simp] theorem txAdvance_extRxEn (s : State) : (txAdvance s).extRxEn = s.extRxEn := rfl
@[simp] theorem txAdvance_wsLine (s : State) : (txAdvance s).wsLine = s.wsLine := rfl
@[simp] theorem txAdvance_feStatus (s : State) : (txAdvance s).feStatus = s.feStatus := rfl
@[simp] theorem txAdvance_rxLineEn (s : State) : (txAdvance s).rxLineEn = s.rxLineEn := rfl
@[simp] theorem txAdvance_txLineEn (s : State) : (txAdvance s).txLineEn = s.txLineEn := rfl
@[simp] theorem txAdvance_feLineEn (s : State) : (txAdvance s).feLineEn = s.feLineEn := rfl
@[simp] theorem txAdvance_cfgValid (s : State) : (txAdvance s).cfgValid = s.cfgValid := rfl
@[simp] theorem txAdvance_cfgRate (s : State) : (txAdvance s).cfgRate = s.cfgRate := rfl
@[simp] theorem txAdvance_cfgClk (s : State) : (txAdvance s).cfgClk = s.cfgClk := rfl
@[simp] theorem txAdvance_bufsInit (s : State) : (txAdvance s).bufsInit = s.bufsInit := rfl
@[simp] theorem txAdvance_cbWait (s : State) : (txAdvance s).cbWait = s.cbWait := rfl
@[simp] theorem txAdvance_cbSr (s : State) : (txAdvance s).cbSr = s.cbSr := rfl
@[simp] theorem txAdvance_cbRxByte (s : State) : (txAdvance s).cbRxByte = s.cbRxByte := rfl
@[simp] theorem txAdvance_underrunFlag (s : State) : (txAdvance s).underrunFlag = s.underrunFlag := rfl
@[simp] theorem txAdvance_underrunCount (s : State) : (txAdvance s).underrunCount = s.underrunCount := rfl
@[simp] theorem txAdvance_teCount (s : State) : (txAdvance s).teCount = s.teCount := rfl
@[simp] theorem txAdvance_dmeCount (s : State) : (txAdvance s).dmeCount = s.dmeCount := rfl
@[simp] theorem txAdvance_recoveryCount (s : State) : (txAdvance s).recoveryCount = s.recoveryCount := rfl
@[simp] theorem txAdvance_recoveryFailCount (s : State) : (txAdvance s).recoveryFailCount = s.recoveryFailCount := rfl
@[simp] theorem txAdvance_callbackCount (s : State) : (txAdvance s).callbackCount = s.callbackCount := rfl
@[simp] theorem txAdvance_lastError (s : State) : (txAdvance s).lastError = s.lastError := rfl
@[simp] theorem txAdvance_rxProgress (s : State) : (txAdvance s).rxProgress = s.rxProgress := rfl
@[simp] theorem txAdvance_txProgress (s : State) : (txAdvance s).txProgress = s.txProgress + 1 := rfl
@[simp] theorem txAdvance_lastProgress (s : State) : (txAdvance s).lastProgress = s.lastProgress := rfl
@[simp] theorem txAdvance_mem (s : State) : (txAdvance s).mem = s.mem := rfl
@[simp] theorem txAdvance_cbTrace (s : State) : (txAdvance s).cbTrace = s.cbTrace := rfl
@[simp] theorem txAdvance_txTrace (s : State) : (txAdvance s).txTrace = s.txTrace := rfl
@[simp] theorem txAdvance_rxTrace (s : State) : (txAdvance s).rxTrace = s.rxTrace := rfl
@[simp] theorem txAdvance_callTrace (s : State) : (txAdvance s).callTrace = s.callTrace := rfl
@[simp] theorem txAdvance_inputs (s : State) : (txAdvance s).inputs = s.inputs := rfl
@[simp] theorem txAdvance_tick (s : State) : (txAdvance s).tick = s.tick := rfl

@[simp] theorem beginRecovery_params (s : State) : (beginRecovery s).params = s.params := rfl
@[simp] theorem beginRecovery_cmd (s : State) : (beginRecovery s).cmd = s.cmd := rfl
@[simp] theorem beginRecovery_rspErr (s : State) : (beginRecovery s).rspErr = s.rspErr := rfl
@[simp] theorem beginRecovery_rspData (s : State) : (beginRecovery s).rspData = s.rspData := rfl
@[simp] theorem beginRecovery_fgBusy (s : State) : (beginRecovery s).fgBusy = s.fgBusy := rfl
@[simp] theorem beginRecovery_fgProc (s : State) : (beginRecovery s).fgProc = s.fgProc := rfl
@[simp] theorem beginRecovery_runState (s : State) : (beginRecovery s).runState = .faulted := rfl
@[simp] theorem beginRecovery_recState (s : State) : (beginRecovery s).recState = .recovering := rfl
@[simp] theorem beginRecovery_readyHalf (s : State) : (beginRecovery s).readyHalf = s.readyHalf := rfl
@[simp] theorem beginRecovery_dispPhase (s : State) : (beginRecovery s).dispPhase = .recover := rfl
@[simp] theorem beginRecovery_dispBlock (s : State) : (beginRecovery s).dispBlock = s.dispBlock := rfl
@[simp] theorem beginRecovery_dispHalf (s : State) : (beginRecovery s).dispHalf = s.dispHalf := rfl
@[simp] theorem beginRecovery_dispProc (s : State) : (beginRecovery s).dispProc = some (recoveryStart s.params) := rfl
@[simp] theorem beginRecovery_rxFlags (s : State) : (beginRecovery s).rxFlags = s.rxFlags := rfl
@[simp] theorem beginRecovery_rxIrqEn (s : State) : (beginRecovery s).rxIrqEn = s.rxIrqEn := rfl
@[simp] theorem beginRecovery_rxEn (s : State) : (beginRecovery s).rxEn = s.rxEn := rfl
@[simp] theorem beginRecovery_rxNdtr (s : State) : (beginRecovery s).rxNdtr = s.rxNdtr := rfl
@[simp] theorem beginRecovery_rxCfg (s : State) : (beginRecovery s).rxCfg = s.rxCfg := rfl
@[simp] theorem beginRecovery_txFlags (s : State) : (beginRecovery s).txFlags = s.txFlags := rfl
@[simp] theorem beginRecovery_txIrqEn (s : State) : (beginRecovery s).txIrqEn = s.txIrqEn := rfl
@[simp] theorem beginRecovery_txEn (s : State) : (beginRecovery s).txEn = s.txEn := rfl
@[simp] theorem beginRecovery_txNdtr (s : State) : (beginRecovery s).txNdtr = s.txNdtr := rfl
@[simp] theorem beginRecovery_txCfg (s : State) : (beginRecovery s).txCfg = s.txCfg := rfl
@[simp] theorem beginRecovery_clocksOn (s : State) : (beginRecovery s).clocksOn = s.clocksOn := rfl
@[simp] theorem beginRecovery_cbClkOn (s : State) : (beginRecovery s).cbClkOn = s.cbClkOn := rfl
@[simp] theorem beginRecovery_pllLocked (s : State) : (beginRecovery s).pllLocked = s.pllLocked := rfl
@[simp] theorem beginRecovery_busEn (s : State) : (beginRecovery s).busEn = s.busEn := rfl
@[simp] theorem beginRecovery_extRxEn (s : State) : (beginRecovery s).extRxEn = s.extRxEn := rfl
@[simp] theorem beginRecovery_wsLine (s : State) : (beginRecovery s).wsLine = s.wsLine := rfl
@[simp] theorem beginRecovery_feStatus (s : State) : (beginRecovery s).feStatus = s.feStatus := rfl
@[simp] theorem beginRecovery_rxLineEn (s : State) : (beginRecovery s).rxLineEn = s.rxLineEn := rfl
@[simp] theorem beginRecovery_txLineEn (s : State) : (beginRecovery s).txLineEn = s.txLineEn := rfl
@[simp] theorem beginRecovery_feLineEn (s : State) : (beginRecovery s).feLineEn = s.feLineEn := rfl
@[simp] theorem beginRecovery_cfgValid (s : State) : (beginRecovery s).cfgValid = s.cfgValid := rfl
@[simp] theorem beginRecovery_cfgRate (s : State) : (beginRecovery s).cfgRate = s.cfgRate := rfl
@[simp] theorem beginRecovery_cfgClk (s : State) : (beginRecovery s).cfgClk = s.cfgClk := rfl
@[simp] theorem beginRecovery_bufsInit (s : State) : (beginRecovery s).bufsInit = s.bufsInit := rfl
@[simp] theorem beginRecovery_cbWait (s : State) : (beginRecovery s).cbWait = s.cbWait := rfl
@[simp] theorem beginRecovery_cbSr (s : State) : (beginRecovery s).cbSr = s.cbSr := rfl
@[simp] theorem beginRecovery_cbRxByte (s : State) : (beginRecovery s).cbRxByte = s.cbRxByte := rfl
@[simp] theorem beginRecovery_underrunFlag (s : State) : (beginRecovery s).underrunFlag = s.underrunFlag := rfl
@[simp] theorem beginRecovery_underrunCount (s : State) : (beginRecovery s).underrunCount = s.underrunCount := rfl
@[simp] theorem beginRecovery_teCount (s : State) : (beginRecovery s).teCount = s.teCount := rfl
@[simp] theorem beginRecovery_dmeCount (s : State) : (beginRecovery s).dmeCount = s.dmeCount := rfl
@[simp] theorem beginRecovery_recoveryCount (s : State) : (beginRecovery s).recoveryCount = s.recoveryCount := rfl
@[simp] theorem beginRecovery_recoveryFailCount (s : State) :
    (beginRecovery s).recoveryFailCount = s.recoveryFailCount := rfl
@[simp] theorem beginRecovery_callbackCount (s : State) : (beginRecovery s).callbackCount = s.callbackCount := rfl
@[simp] theorem beginRecovery_lastError (s : State) : (beginRecovery s).lastError = s.lastError := rfl
@[simp] theorem beginRecovery_rxProgress (s : State) : (beginRecovery s).rxProgress = s.rxProgress := rfl
@[simp] theorem beginRecovery_txProgress (s : State) : (beginRecovery s).txProgress = s.txProgress := rfl
@[simp] theorem beginRecovery_lastProgress (s : State) : (beginRecovery s).lastProgress = s.lastProgress := rfl
@[simp] theorem beginRecovery_mem (s : State) : (beginRecovery s).mem = s.mem := rfl
@[simp] theorem beginRecovery_cbTrace (s : State) : (beginRecovery s).cbTrace = s.cbTrace := rfl
@[simp] theorem beginRecovery_txTrace (s : State) : (beginRecovery s).txTrace = s.txTrace := rfl
@[simp] theorem beginRecovery_rxTrace (s : State) : (beginRecovery s).rxTrace = s.rxTrace := rfl
@[simp] theorem beginRecovery_callTrace (s : State) : (beginRecovery s).callTrace = s.callTrace := rfl
@[simp] theorem beginRecovery_inputs (s : State) : (beginRecovery s).inputs = s.inputs := rfl
@[simp] theorem beginRecovery_tick (s : State) : (beginRecovery s).tick = s.tick := rfl

@[simp] theorem continueRecovery_params (k : RecoveryProc) (s : State) :
    (continueRecovery k s).params = s.params := rfl
@[simp] theorem continueRecovery_cmd (k : RecoveryProc) (s : State) : (continueRecovery k s).cmd = s.cmd := rfl
@[simp] theorem continueRecovery_rspErr (k : RecoveryProc) (s : State) :
    (continueRecovery k s).rspErr = s.rspErr := rfl
@[simp] theorem continueRecovery_rspData (k : RecoveryProc) (s : State) :
    (continueRecovery k s).rspData = s.rspData := rfl
@[simp] theorem continueRecovery_fgBusy (k : RecoveryProc) (s : State) :
    (continueRecovery k s).fgBusy = s.fgBusy := rfl
@[simp] theorem continueRecovery_fgProc (k : RecoveryProc) (s : State) :
    (continueRecovery k s).fgProc = s.fgProc := rfl
@[simp] theorem continueRecovery_runState (k : RecoveryProc) (s : State) :
    (continueRecovery k s).runState = s.runState := rfl
@[simp] theorem continueRecovery_recState (k : RecoveryProc) (s : State) :
    (continueRecovery k s).recState = s.recState := rfl
@[simp] theorem continueRecovery_readyHalf (k : RecoveryProc) (s : State) :
    (continueRecovery k s).readyHalf = s.readyHalf := rfl
@[simp] theorem continueRecovery_dispPhase (k : RecoveryProc) (s : State) :
    (continueRecovery k s).dispPhase = s.dispPhase := rfl
@[simp] theorem continueRecovery_dispBlock (k : RecoveryProc) (s : State) :
    (continueRecovery k s).dispBlock = s.dispBlock := rfl
@[simp] theorem continueRecovery_dispHalf (k : RecoveryProc) (s : State) :
    (continueRecovery k s).dispHalf = s.dispHalf := rfl
@[simp] theorem continueRecovery_dispProc (k : RecoveryProc) (s : State) :
    (continueRecovery k s).dispProc = some k := rfl
@[simp] theorem continueRecovery_rxFlags (k : RecoveryProc) (s : State) :
    (continueRecovery k s).rxFlags = s.rxFlags := rfl
@[simp] theorem continueRecovery_rxIrqEn (k : RecoveryProc) (s : State) :
    (continueRecovery k s).rxIrqEn = s.rxIrqEn := rfl
@[simp] theorem continueRecovery_rxEn (k : RecoveryProc) (s : State) : (continueRecovery k s).rxEn = s.rxEn := rfl
@[simp] theorem continueRecovery_rxNdtr (k : RecoveryProc) (s : State) :
    (continueRecovery k s).rxNdtr = s.rxNdtr := rfl
@[simp] theorem continueRecovery_rxCfg (k : RecoveryProc) (s : State) : (continueRecovery k s).rxCfg = s.rxCfg := rfl
@[simp] theorem continueRecovery_txFlags (k : RecoveryProc) (s : State) :
    (continueRecovery k s).txFlags = s.txFlags := rfl
@[simp] theorem continueRecovery_txIrqEn (k : RecoveryProc) (s : State) :
    (continueRecovery k s).txIrqEn = s.txIrqEn := rfl
@[simp] theorem continueRecovery_txEn (k : RecoveryProc) (s : State) : (continueRecovery k s).txEn = s.txEn := rfl
@[simp] theorem continueRecovery_txNdtr (k : RecoveryProc) (s : State) :
    (continueRecovery k s).txNdtr = s.txNdtr := rfl
@[simp] theorem continueRecovery_txCfg (k : RecoveryProc) (s : State) : (continueRecovery k s).txCfg = s.txCfg := rfl
@[simp] theorem continueRecovery_clocksOn (k : RecoveryProc) (s : State) :
    (continueRecovery k s).clocksOn = s.clocksOn := rfl
@[simp] theorem continueRecovery_cbClkOn (k : RecoveryProc) (s : State) :
    (continueRecovery k s).cbClkOn = s.cbClkOn := rfl
@[simp] theorem continueRecovery_pllLocked (k : RecoveryProc) (s : State) :
    (continueRecovery k s).pllLocked = s.pllLocked := rfl
@[simp] theorem continueRecovery_busEn (k : RecoveryProc) (s : State) : (continueRecovery k s).busEn = s.busEn := rfl
@[simp] theorem continueRecovery_extRxEn (k : RecoveryProc) (s : State) :
    (continueRecovery k s).extRxEn = s.extRxEn := rfl
@[simp] theorem continueRecovery_wsLine (k : RecoveryProc) (s : State) :
    (continueRecovery k s).wsLine = s.wsLine := rfl
@[simp] theorem continueRecovery_feStatus (k : RecoveryProc) (s : State) :
    (continueRecovery k s).feStatus = s.feStatus := rfl
@[simp] theorem continueRecovery_rxLineEn (k : RecoveryProc) (s : State) :
    (continueRecovery k s).rxLineEn = s.rxLineEn := rfl
@[simp] theorem continueRecovery_txLineEn (k : RecoveryProc) (s : State) :
    (continueRecovery k s).txLineEn = s.txLineEn := rfl
@[simp] theorem continueRecovery_feLineEn (k : RecoveryProc) (s : State) :
    (continueRecovery k s).feLineEn = s.feLineEn := rfl
@[simp] theorem continueRecovery_cfgValid (k : RecoveryProc) (s : State) :
    (continueRecovery k s).cfgValid = s.cfgValid := rfl
@[simp] theorem continueRecovery_cfgRate (k : RecoveryProc) (s : State) :
    (continueRecovery k s).cfgRate = s.cfgRate := rfl
@[simp] theorem continueRecovery_cfgClk (k : RecoveryProc) (s : State) :
    (continueRecovery k s).cfgClk = s.cfgClk := rfl
@[simp] theorem continueRecovery_bufsInit (k : RecoveryProc) (s : State) :
    (continueRecovery k s).bufsInit = s.bufsInit := rfl
@[simp] theorem continueRecovery_cbWait (k : RecoveryProc) (s : State) :
    (continueRecovery k s).cbWait = s.cbWait := rfl
@[simp] theorem continueRecovery_cbSr (k : RecoveryProc) (s : State) : (continueRecovery k s).cbSr = s.cbSr := rfl
@[simp] theorem continueRecovery_cbRxByte (k : RecoveryProc) (s : State) :
    (continueRecovery k s).cbRxByte = s.cbRxByte := rfl
@[simp] theorem continueRecovery_underrunFlag (k : RecoveryProc) (s : State) :
    (continueRecovery k s).underrunFlag = s.underrunFlag := rfl
@[simp] theorem continueRecovery_underrunCount (k : RecoveryProc) (s : State) :
    (continueRecovery k s).underrunCount = s.underrunCount := rfl
@[simp] theorem continueRecovery_teCount (k : RecoveryProc) (s : State) :
    (continueRecovery k s).teCount = s.teCount := rfl
@[simp] theorem continueRecovery_dmeCount (k : RecoveryProc) (s : State) :
    (continueRecovery k s).dmeCount = s.dmeCount := rfl
@[simp] theorem continueRecovery_recoveryCount (k : RecoveryProc) (s : State) :
    (continueRecovery k s).recoveryCount = s.recoveryCount := rfl
@[simp] theorem continueRecovery_recoveryFailCount (k : RecoveryProc) (s : State) :
    (continueRecovery k s).recoveryFailCount = s.recoveryFailCount := rfl
@[simp] theorem continueRecovery_callbackCount (k : RecoveryProc) (s : State) :
    (continueRecovery k s).callbackCount = s.callbackCount := rfl
@[simp] theorem continueRecovery_lastError (k : RecoveryProc) (s : State) :
    (continueRecovery k s).lastError = s.lastError := rfl
@[simp] theorem continueRecovery_rxProgress (k : RecoveryProc) (s : State) :
    (continueRecovery k s).rxProgress = s.rxProgress := rfl
@[simp] theorem continueRecovery_txProgress (k : RecoveryProc) (s : State) :
    (continueRecovery k s).txProgress = s.txProgress := rfl
@[simp] theorem continueRecovery_lastProgress (k : RecoveryProc) (s : State) :
    (continueRecovery k s).lastProgress = s.lastProgress := rfl
@[simp] theorem continueRecovery_mem (k : RecoveryProc) (s : State) : (continueRecovery k s).mem = s.mem := rfl
@[simp] theorem continueRecovery_cbTrace (k : RecoveryProc) (s : State) :
    (continueRecovery k s).cbTrace = s.cbTrace := rfl
@[simp] theorem continueRecovery_txTrace (k : RecoveryProc) (s : State) :
    (continueRecovery k s).txTrace = s.txTrace := rfl
@[simp] theorem continueRecovery_rxTrace (k : RecoveryProc) (s : State) :
    (continueRecovery k s).rxTrace = s.rxTrace := rfl
@[simp] theorem continueRecovery_callTrace (k : RecoveryProc) (s : State) :
    (continueRecovery k s).callTrace = s.callTrace := rfl
@[simp] theorem continueRecovery_inputs (k : RecoveryProc) (s : State) :
    (continueRecovery k s).inputs = s.inputs := rfl
@[simp] theorem continueRecovery_tick (k : RecoveryProc) (s : State) : (continueRecovery k s).tick = s.tick := rfl

@[simp] theorem feh_params (s : State) : (feh s).params = s.params := rfl
@[simp] theorem feh_cmd (s : State) : (feh s).cmd = s.cmd := rfl
@[simp] theorem feh_rspErr (s : State) : (feh s).rspErr = s.rspErr := rfl
@[simp] theorem feh_rspData (s : State) : (feh s).rspData = s.rspData := rfl
@[simp] theorem feh_fgBusy (s : State) : (feh s).fgBusy = s.fgBusy := rfl
@[simp] theorem feh_fgProc (s : State) : (feh s).fgProc = s.fgProc := rfl
@[simp] theorem feh_runState (s : State) : (feh s).runState = s.runState := rfl
@[simp] theorem feh_recState (s : State) :
    (feh s).recState = if s.recState = .normal then .frameErrorPending else s.recState := rfl
@[simp] theorem feh_readyHalf (s : State) : (feh s).readyHalf = s.readyHalf := rfl
@[simp] theorem feh_dispPhase (s : State) : (feh s).dispPhase = s.dispPhase := rfl
@[simp] theorem feh_dispBlock (s : State) : (feh s).dispBlock = s.dispBlock := rfl
@[simp] theorem feh_dispHalf (s : State) : (feh s).dispHalf = s.dispHalf := rfl
@[simp] theorem feh_dispProc (s : State) : (feh s).dispProc = s.dispProc := rfl
@[simp] theorem feh_rxFlags (s : State) : (feh s).rxFlags = s.rxFlags := rfl
@[simp] theorem feh_rxIrqEn (s : State) : (feh s).rxIrqEn = s.rxIrqEn := rfl
@[simp] theorem feh_rxEn (s : State) : (feh s).rxEn = s.rxEn := rfl
@[simp] theorem feh_rxNdtr (s : State) : (feh s).rxNdtr = s.rxNdtr := rfl
@[simp] theorem feh_rxCfg (s : State) : (feh s).rxCfg = s.rxCfg := rfl
@[simp] theorem feh_txFlags (s : State) : (feh s).txFlags = s.txFlags := rfl
@[simp] theorem feh_txIrqEn (s : State) : (feh s).txIrqEn = s.txIrqEn := rfl
@[simp] theorem feh_txEn (s : State) : (feh s).txEn = s.txEn := rfl
@[simp] theorem feh_txNdtr (s : State) : (feh s).txNdtr = s.txNdtr := rfl
@[simp] theorem feh_txCfg (s : State) : (feh s).txCfg = s.txCfg := rfl
@[simp] theorem feh_clocksOn (s : State) : (feh s).clocksOn = s.clocksOn := rfl
@[simp] theorem feh_cbClkOn (s : State) : (feh s).cbClkOn = s.cbClkOn := rfl
@[simp] theorem feh_pllLocked (s : State) : (feh s).pllLocked = s.pllLocked := rfl
@[simp] theorem feh_busEn (s : State) : (feh s).busEn = s.busEn := rfl
@[simp] theorem feh_extRxEn (s : State) : (feh s).extRxEn = s.extRxEn := rfl
@[simp] theorem feh_wsLine (s : State) : (feh s).wsLine = s.wsLine := rfl
@[simp] theorem feh_feStatus (s : State) : (feh s).feStatus = false := rfl
@[simp] theorem feh_rxLineEn (s : State) : (feh s).rxLineEn = s.rxLineEn := rfl
@[simp] theorem feh_txLineEn (s : State) : (feh s).txLineEn = s.txLineEn := rfl
@[simp] theorem feh_feLineEn (s : State) : (feh s).feLineEn = s.feLineEn := rfl
@[simp] theorem feh_cfgValid (s : State) : (feh s).cfgValid = s.cfgValid := rfl
@[simp] theorem feh_cfgRate (s : State) : (feh s).cfgRate = s.cfgRate := rfl
@[simp] theorem feh_cfgClk (s : State) : (feh s).cfgClk = s.cfgClk := rfl
@[simp] theorem feh_bufsInit (s : State) : (feh s).bufsInit = s.bufsInit := rfl
@[simp] theorem feh_cbWait (s : State) : (feh s).cbWait = s.cbWait := rfl
@[simp] theorem feh_cbSr (s : State) : (feh s).cbSr = s.cbSr := rfl
@[simp] theorem feh_cbRxByte (s : State) : (feh s).cbRxByte = s.cbRxByte := rfl
@[simp] theorem feh_underrunFlag (s : State) : (feh s).underrunFlag = s.underrunFlag := rfl
@[simp] theorem feh_underrunCount (s : State) : (feh s).underrunCount = s.underrunCount := rfl
@[simp] theorem feh_teCount (s : State) : (feh s).teCount = s.teCount := rfl
@[simp] theorem feh_dmeCount (s : State) : (feh s).dmeCount = s.dmeCount := rfl
@[simp] theorem feh_recoveryCount (s : State) : (feh s).recoveryCount = s.recoveryCount := rfl
@[simp] theorem feh_recoveryFailCount (s : State) : (feh s).recoveryFailCount = s.recoveryFailCount := rfl
@[simp] theorem feh_callbackCount (s : State) : (feh s).callbackCount = s.callbackCount := rfl
@[simp] theorem feh_lastError (s : State) : (feh s).lastError = s.lastError := rfl
@[simp] theorem feh_rxProgress (s : State) : (feh s).rxProgress = s.rxProgress := rfl
@[simp] theorem feh_txProgress (s : State) : (feh s).txProgress = s.txProgress := rfl
@[simp] theorem feh_lastProgress (s : State) : (feh s).lastProgress = s.lastProgress := rfl
@[simp] theorem feh_mem (s : State) : (feh s).mem = s.mem := rfl
@[simp] theorem feh_cbTrace (s : State) : (feh s).cbTrace = s.cbTrace := rfl
@[simp] theorem feh_txTrace (s : State) : (feh s).txTrace = s.txTrace := rfl
@[simp] theorem feh_rxTrace (s : State) : (feh s).rxTrace = s.rxTrace := rfl
@[simp] theorem feh_callTrace (s : State) : (feh s).callTrace = s.callTrace := rfl
@[simp] theorem feh_inputs (s : State) : (feh s).inputs = s.inputs := rfl
@[simp] theorem feh_tick (s : State) : (feh s).tick = s.tick := rfl

end Sys2Proof.Machine
end

