-- ==== Sys2Proof/Laws/Memory.lean ====
section
/-! SUPPORT. Sample memory: a byte read after a write, what a write leaves alone, and the canonical form kept by every
operation. -/

namespace Sys2Proof.Machine

@[simp] theorem Memory.byteAt_nil (a : Nat) : Memory.byteAt [] a = none := rfl

theorem Memory.byteAt_cons (c : Host.Cell) (m : Memory) (a : Nat) :
    Memory.byteAt (c :: m) a = if a = c.1 then some c.2 else Memory.byteAt m a := rfl

theorem Memory.byteAt_writeByte (m : Memory) (a : Nat) (v : Byte) (x : Nat) :
    (m.writeByte a v).byteAt x = if x = a then some v else m.byteAt x := by
  induction m with
  | nil => simp [Memory.writeByte, Memory.byteAt]
  | cons c m ih =>
    by_cases h1 : a < c.1
    · simp [Memory.writeByte, h1, Memory.byteAt]
    · by_cases h2 : a = c.1
      · subst h2
        simp only [Memory.writeByte, h1, if_false, if_true, Memory.byteAt]
        split <;> simp_all
      · simp only [Memory.writeByte, h1, h2, if_false, Memory.byteAt, ih]
        split
        · rename_i h3
          subst h3
          simp [Ne.symm h2]
        · rfl

@[simp] theorem Memory.byteAt_writeByte_self (m : Memory) (a : Nat) (v : Byte) :
    (m.writeByte a v).byteAt a = some v := by simp [Memory.byteAt_writeByte]

theorem Memory.byteAt_writeByte_ne (m : Memory) {a x : Nat} (v : Byte) (h : x ≠ a) :
    (m.writeByte a v).byteAt x = m.byteAt x := by simp [Memory.byteAt_writeByte, h]

theorem Memory.mem_writeByte {m : Memory} {a : Nat} {v : Byte} {c : Host.Cell} (h : c ∈ m.writeByte a v) :
    c = (a, v) ∨ c ∈ m := by
  induction m with
  | nil => simpa [Memory.writeByte] using h
  | cons d m ih =>
    simp only [Memory.writeByte] at h
    split at h
    · simpa using h
    · split at h
      · rcases List.mem_cons.1 h with h | h
        · exact .inl h
        · exact .inr (List.mem_cons_of_mem _ h)
      · rcases List.mem_cons.1 h with h | h
        · exact .inr (h ▸ List.mem_cons_self)
        · exact (ih h).imp_right (List.mem_cons_of_mem _)

theorem Memory.writeByte_wf {m : Memory} (a : Nat) (v : Byte) (h : m.wf) : (m.writeByte a v).wf := by
  induction m with
  | nil => simp [Memory.writeByte]
  | cons c m ih =>
    obtain ⟨hc, hm⟩ := List.pairwise_cons.1 h
    simp only [Memory.writeByte]
    split
    · rename_i h1
      refine List.pairwise_cons.2 ⟨fun d hd => ?_, h⟩
      rcases List.mem_cons.1 hd with rfl | hd
      · exact h1
      · exact Nat.lt_trans h1 (hc d hd)
    · split
      · rename_i h2
        exact List.pairwise_cons.2 ⟨fun d hd => h2 ▸ hc d hd, hm⟩
      · refine List.pairwise_cons.2 ⟨fun d hd => ?_, ih hm⟩
        rcases Memory.mem_writeByte hd with rfl | hd
        · simp only
          omega
        · exact hc d hd

theorem Memory.byteAt_writeItem (m : Memory) (a : Nat) (v : Item) (x : Nat) :
    (m.writeItem a v).byteAt x =
      if x = a then some (v.extractLsb' 0 8) else if x = a + 1 then some (v.extractLsb' 8 8) else m.byteAt x := by
  simp only [Memory.writeItem, Memory.byteAt_writeByte]
  split_ifs <;> first | rfl | omega

theorem Memory.itemAt_writeItem (m : Memory) (a : Nat) (v : Item) : (m.writeItem a v).itemAt a = some v := by
  have : (v.extractLsb' 8 8 ++ v.extractLsb' 0 8 : BitVec 16) = v := by
    apply BitVec.eq_of_getLsbD_eq
    intro i hi
    simp only [BitVec.getLsbD_append, BitVec.getLsbD_extractLsb']
    split
    · rename_i h; simp [h]
    · rename_i h
      have : 8 + (i - 8) = i := by omega
      have h2 : i - 8 < 8 := by omega
      simp [this, h2]
  simp [Memory.itemAt, Memory.byteAt_writeItem, this]

theorem Memory.itemAt_writeItem_ne (m : Memory) {a x : Nat} (v : Item) (h : x + 1 < a ∨ a + 1 < x) :
    (m.writeItem a v).itemAt x = m.itemAt x := by
  have h1 : x ≠ a := by omega
  have h2 : x ≠ a + 1 := by omega
  have h3 : x + 1 ≠ a := by omega
  have h4 : x ≠ a := by omega
  simp [Memory.itemAt, Memory.byteAt_writeItem, h1, h2, h3]

theorem Memory.writeItem_wf {m : Memory} (a : Nat) (v : Item) (h : m.wf) : (m.writeItem a v).wf :=
  Memory.writeByte_wf _ _ (Memory.writeByte_wf _ _ h)

theorem Memory.mem_writeItem {m : Memory} {a : Nat} {v : Item} {c : Host.Cell} (h : c ∈ m.writeItem a v) :
    c.1 = a ∨ c.1 = a + 1 ∨ c ∈ m := by
  rcases Memory.mem_writeByte h with rfl | h
  · exact .inr (.inl rfl)
  · rcases Memory.mem_writeByte h with rfl | h
    · exact .inl rfl
    · exact .inr (.inr h)

theorem zeroItems_wf (base n : Nat) {m : Memory} (h : m.wf) : (zeroItems base n m).wf := by
  induction n with
  | zero => exact h
  | succ n ih => exact Memory.writeItem_wf _ _ ih

theorem byteAt_zeroItems (base n : Nat) (m : Memory) (x : Nat) :
    (zeroItems base n m).byteAt x = if base ≤ x ∧ x < base + 2 * n then some 0 else m.byteAt x := by
  induction n with
  | zero => simp [zeroItems]
  | succ n ih =>
    simp only [zeroItems, Memory.byteAt_writeItem, ih]
    split_ifs <;> first | rfl | omega

theorem mem_zeroItems {base n : Nat} {m : Memory} {c : Host.Cell} (h : c ∈ zeroItems base n m) :
    (base ≤ c.1 ∧ c.1 < base + 2 * n) ∨ c ∈ m := by
  induction n with
  | zero => exact .inr h
  | succ n ih =>
    rcases Memory.mem_writeItem h with h | h | h
    · left; omega
    · left; omega
    · rcases ih h with h | h
      · left; omega
      · exact .inr h

/-- A byte is read where it is listed, and only there, once memory is canonical. -/
theorem Memory.byteAt_isSome_iff (m : Memory) (a : Nat) : (m.byteAt a).isSome = true ↔ ∃ c ∈ m, c.1 = a := by
  induction m with
  | nil => simp
  | cons c m ih =>
    simp only [Memory.byteAt_cons, List.mem_cons, exists_eq_or_imp]
    split
    · rename_i h; simp [h]
    · rename_i h; simp [ih, Ne.symm h]

/-- Everything `MemWrite` can do (R64). -/
theorem memWrite_cases (s : State) (a : Nat) (v : Item) :
    (isItemAddr s.params a = true ∧ memWrite s a v = .ok { s with mem := s.mem.writeItem a v })
      ∨ (isItemAddr s.params a = false ∧ memWrite s a v = .error (.outsideBuffers a)) := by
  unfold memWrite
  cases isItemAddr s.params a <;> simp

/-- Everything `MemRead` can do (R63). -/
theorem memRead_cases (s : State) (a : Nat) :
    (isItemAddr s.params a = true ∧ ∃ v, s.mem.itemAt a = some v ∧ memRead s a = .ok v)
      ∨ (isItemAddr s.params a = true ∧ s.mem.itemAt a = none ∧ memRead s a = .error (.unwrittenItem a))
      ∨ (isItemAddr s.params a = false ∧ memRead s a = .error (.outsideBuffers a)) := by
  unfold memRead
  cases isItemAddr s.params a <;> cases s.mem.itemAt a <;> simp

theorem memWrite_keeps_wf {s t : State} {a : Nat} {v : Item} (h : memWrite s a v = .ok t) (hs : s.mem.wf) :
    t.mem.wf := by
  rcases memWrite_cases s a v with ⟨_, h'⟩ | ⟨_, h'⟩
  · rw [h'] at h
    cases h
    exact Memory.writeItem_wf _ _ hs
  · rw [h'] at h
    cases h

theorem zeroBuffers_wf {s : State} (h : s.mem.wf) : (zeroBuffers s).mem.wf :=
  zeroItems_wf _ _ (zeroItems_wf _ _ h)

theorem reset_mem_wf (p : Params) : (State.resetWith p).mem.wf := List.Pairwise.nil

/-- The item addresses of R63 and R64, spelled with an index. -/
theorem isItemAddr_iff (p : Params) (a : Nat) :
    isItemAddr p a = true ↔ (∃ i < p.nRx, a = rxItemAddr p i) ∨ ∃ i < p.nTx, a = txItemAddr p i := by
  simp only [isItemAddr, Bool.or_eq_true, Bool.and_eq_true, decide_eq_true_eq, rxItemAddr, txItemAddr]
  refine or_congr ⟨fun ⟨⟨h1, h2⟩, h3⟩ => ⟨(a - p.rxBase) / 2, h3, by omega⟩, ?_⟩
    ⟨fun ⟨⟨h1, h2⟩, h3⟩ => ⟨(a - p.txBase) / 2, h3, by omega⟩, ?_⟩
  · rintro ⟨i, hi, rfl⟩
    refine ⟨⟨by omega, by omega⟩, ?_⟩
    rw [show p.rxBase + 2 * i - p.rxBase = 2 * i by omega, Nat.mul_div_cancel_left _ (by decide)]
    exact hi
  · rintro ⟨i, hi, rfl⟩
    refine ⟨⟨by omega, by omega⟩, ?_⟩
    rw [show p.txBase + 2 * i - p.txBase = 2 * i by omega, Nat.mul_div_cancel_left _ (by decide)]
    exact hi

end Sys2Proof.Machine
end

