-- ==== Sys2Proof/Laws/Ops.lean ====
section
/-! SUPPORT. For each shared operation one lemma that says once everything it can do; later proofs cite it instead of
unfolding the operation. -/

namespace Sys2Proof.Machine

/-- What one poll step can answer (R13). -/
theorem pollStep_cases (cond : Bool) (left : Nat) :
    (cond = true ∧ pollStep cond left = .ok)
      ∨ (cond = false ∧ left ≤ 1 ∧ pollStep cond left = .timeout)
      ∨ (cond = false ∧ 1 < left ∧ pollStep cond left = .again (left - 1)) := by
  cases cond
  · by_cases h : left ≤ 1
    · exact .inr (.inl ⟨rfl, h, by simp [pollStep, h]⟩)
    · exact .inr (.inr ⟨rfl, by omega, by simp [pollStep, h]⟩)
  · exact .inl ⟨rfl, rfl⟩

@[simp] theorem pollStep_true (left : Nat) : pollStep true left = .ok := rfl

/-- The three supported rates (R7). -/
theorem rateOf_isSome_iff (rate : BitVec 24) :
    (rateOf rate).isSome = true ↔ rate = 16000#24 ∨ rate = 32000#24 ∨ rate = 44100#24 := by
  unfold rateOf
  split_ifs with h1 h2 h3 <;> simp [*]

theorem rateOf_eq_none_iff (rate : BitVec 24) :
    rateOf rate = none ↔ rate ≠ 16000#24 ∧ rate ≠ 32000#24 ∧ rate ≠ 44100#24 := by
  unfold rateOf
  split_ifs with h1 h2 h3 <;> simp [*]

/-- Which handler can start, and what each start says (R222, R228). -/
theorem handlerToStart_cases (s : State) :
    (handlerToStart s = none ∧ (s.dispPhase ≠ .idle ∨ (irqRx s = false ∧ irqTx s = false ∧ irqFe s = false)))
      ∨ (handlerToStart s = some .disp ∧ s.dispPhase = .idle ∧ irqRx s = true)
      ∨ (handlerToStart s = some .txh ∧ s.dispPhase = .idle ∧ irqRx s = false ∧ irqTx s = true)
      ∨ (handlerToStart s = some .feh ∧ s.dispPhase = .idle ∧ irqRx s = false ∧ irqTx s = false
          ∧ irqFe s = true) := by
  unfold handlerToStart
  by_cases h : s.dispPhase = .idle
  · cases irqRx s <;> cases irqTx s <;> cases irqFe s <;> simp [h]
  · simp [h]

theorem fgMayStep_iff (s : State) :
    fgMayStep s = true ↔ s.dispPhase = .idle ∧ irqRx s = false ∧ irqTx s = false ∧ irqFe s = false := by
  unfold fgMayStep
  cases irqRx s <;> cases irqTx s <;> cases irqFe s <;> simp

theorem irqRx_masked {s : State} (h : s.rxLineEn = false) : irqRx s = false := by simp [irqRx, h]
theorem irqTx_masked {s : State} (h : s.txLineEn = false) : irqTx s = false := by simp [irqTx, h]
theorem irqFe_masked {s : State} (h : s.feLineEn = false) : irqFe s = false := by simp [irqFe, h]

/-- What one step of the engine can do (R113, R115, R117, R126). -/
theorem engineStep_cases (r : TxnRun) (s : State) :
    (r.pos = .request ∧ engineStep r s = .going { r with pos := .poll s.params.spinLimit }
        (cbRequest (stagePhase r.stage) (stageSymbol s.params r.txn r.stage) s))
      ∨ (∃ left, r.pos = .poll left ∧ cbFlag s.cbSr (stagePhase r.stage) = false ∧ 1 < left
          ∧ engineStep r s = .going { r with pos := .poll (left - 1) } s)
      ∨ (∃ left, r.pos = .poll left ∧ cbFlag s.cbSr (stagePhase r.stage) = false ∧ left ≤ 1
          ∧ engineStep r s = .timedOut (cbAbort r.stage s))
      ∨ (∃ left g, r.pos = .poll left ∧ cbFlag s.cbSr (stagePhase r.stage) = true ∧ nextStage r.txn r.stage = some g
          ∧ engineStep r s =
            .going { r with stage := g, pos := .request, byte := cbByteAfter r s } (cbPhaseOk r.stage s))
      ∨ (∃ left, r.pos = .poll left ∧ cbFlag s.cbSr (stagePhase r.stage) = true ∧ nextStage r.txn r.stage = none
          ∧ engineStep r s = .done r.byte (cbIdle (cbPhaseOk r.stage s))) := by
  unfold engineStep
  cases hp : r.pos with
  | request => simp
  | poll left =>
    rcases pollStep_cases (cbFlag s.cbSr (stagePhase r.stage)) left with ⟨h, e⟩ | ⟨h, hl, e⟩ | ⟨h, hl, e⟩
    · cases nextStage r.txn r.stage <;> simp [h]
    · rw [h] at e
      exact .inr (.inr (.inl ⟨left, rfl, h, hl, by simp [h, e]⟩))
    · rw [h] at e
      exact .inr (.inl ⟨left, rfl, h, hl, by simp [h, e]⟩)

/-- What one step of a codec sequence can do (R121). -/
theorem codecStep_cases (c : CodecRun) (s : State) :
    (∃ r s', engineStep c.run s = .going r s' ∧ codecStep c s = .going { c with run := r } s')
      ∨ (∃ s', engineStep c.run s = .timedOut s' ∧ codecStep c s = .failed .busTimeout s')
      ∨ (∃ b s' c', engineStep c.run s = .done b s' ∧ beginCodec s'.params c.rest = some c'
          ∧ codecStep c s = .going c' s')
      ∨ (∃ b s', engineStep c.run s = .done b s' ∧ c.rest = [] ∧ codecStep c s = .done s') := by
  unfold codecStep
  cases h : engineStep c.run s with
  | going r s' => simp
  | timedOut s' => simp
  | done b s' => cases hr : c.rest <;> simp [beginCodec]

/-- What the beginning of `do_setup` can do (R130). -/
theorem setupBegin_cases (rate : BitVec 24) (s : State) :
    (rateOf rate = none ∧ setupBegin rate s = .failed .unsupportedRate s)
      ∨ ((rateOf rate).isSome = true ∧ s.runState = .running ∧ setupBegin rate s = .failed .invalidState s)
      ∨ (∃ r, rateOf rate = some r ∧ s.runState ≠ .running
          ∧ setupBegin rate s = .going (.pll s.params.pllSpinLimit) (applyClock r s)) := by
  unfold setupBegin
  cases h : rateOf rate with
  | none => simp
  | some r => by_cases hr : s.runState = .running <;> simp [hr]

/-- What the beginning of `do_start` can do (R134). -/
theorem startBegin_cases (s : State) :
    (s.runState = .configured ∧ startBegin s = .going (s.wsLine, s.params.spinLimit) (armStream s))
      ∨ (s.runState ≠ .configured ∧ startBegin s = .failed .invalidState s) := by
  unfold startBegin
  by_cases h : s.runState = .configured <;> simp [h]

/-- What one poll step of `do_start` can do (R134). -/
theorem startStep_cases (ws0 : Bool) (left : Nat) (s : State) :
    (s.wsLine ≠ ws0 ∧ startStep ws0 left s = .done (openStream s))
      ∨ (s.wsLine = ws0 ∧ left ≤ 1 ∧ startStep ws0 left s = .failed .busTimeout (doDisable s))
      ∨ (s.wsLine = ws0 ∧ 1 < left ∧ startStep ws0 left s = .going (ws0, left - 1) s) := by
  unfold startStep
  rcases pollStep_cases (s.wsLine != ws0) left with ⟨h, e⟩ | ⟨h, hl, e⟩ | ⟨h, hl, e⟩
  · left
    rw [e]
    exact ⟨by simpa using h, rfl⟩
  · right; left
    rw [e]
    exact ⟨by simpa using h, hl, rfl⟩
  · right; right
    rw [e]
    exact ⟨by simpa using h, hl, rfl⟩

/-- What one step of `do_setup` can do, position by position (R130). -/
theorem setupStep_cases (rate : BitVec 24) (pos : SetupPos) (s : State) :
    (∃ left, pos = .pll left ∧ s.pllLocked = true ∧ setupStep rate pos s = .going .clockOn s)
      ∨ (∃ left, pos = .pll left ∧ s.pllLocked = false ∧ 1 < left
          ∧ setupStep rate pos s = .going (.pll (left - 1)) s)
      ∨ (∃ left, pos = .pll left ∧ s.pllLocked = false ∧ left ≤ 1
          ∧ setupStep rate pos s = .failed .pllLockTimeout (invalidateConfig s))
      ∨ (pos = .clockOn ∧ setupStep rate pos s = .going (afterClockOn s.params) { s with cbClkOn := true })
      ∨ (∃ c c' s', pos = .codec c ∧ codecStep c s = .going c' s' ∧ setupStep rate pos s = .going (.codec c') s')
      ∨ (∃ c s', pos = .codec c ∧ codecStep c s = .done s' ∧ setupStep rate pos s = .going .dmaConfigure s')
      ∨ (∃ c e s', pos = .codec c ∧ codecStep c s = .failed e s'
          ∧ setupStep rate pos s = .failed e (invalidateConfig s'))
      ∨ (pos = .dmaConfigure ∧ s.bufsInit = true ∧ setupStep rate pos s = .going .finish (dmaConfigure s))
      ∨ (pos = .dmaConfigure ∧ s.bufsInit = false ∧ setupStep rate pos s = .going .zeroBuffers (dmaConfigure s))
      ∨ (pos = .zeroBuffers ∧ setupStep rate pos s = .going .finish (zeroBuffers s))
      ∨ (pos = .finish ∧ setupStep rate pos s = .done (finishSetup rate s)) := by
  cases pos with
  | pll left =>
    rcases pollStep_cases s.pllLocked left with ⟨h, e⟩ | ⟨h, hl, e⟩ | ⟨h, hl, e⟩ <;> rw [h] at e <;>
      simp [setupStep, h, e] <;> omega
  | codec c => cases h : codecStep c s <;> simp [setupStep, h]
  | dmaConfigure => cases h : s.bufsInit <;> simp [setupStep, h]
  | clockOn => simp [setupStep]
  | zeroBuffers => simp [setupStep]
  | finish => simp [setupStep]

/-- What a DMA_RX item can do (R141). -/
theorem dmaRxItem_cases (w : Item) (s : State) :
    (isItemAddr s.params (rxItemAddr s.params s.rxIdx) = true ∧ dmaRxItem w s = .next (rxAdvance { s with
        mem := s.mem.writeItem (rxItemAddr s.params s.rxIdx) w, rxTrace := s.rxTrace ++ [w] }))
      ∨ (isItemAddr s.params (rxItemAddr s.params s.rxIdx) = false
          ∧ dmaRxItem w s = .fault (.outsideBuffers (rxItemAddr s.params s.rxIdx))) := by
  cases h : isItemAddr s.params (rxItemAddr s.params s.rxIdx) <;> simp [dmaRxItem, memWrite, h]

/-- What a DMA_TX item can do (R143). -/
theorem dmaTxItem_cases (s : State) :
    (∃ w, memRead s (txItemAddr s.params s.txIdx) = .ok w
        ∧ dmaTxItem s = .next (txAdvance { s with txTrace := s.txTrace ++ [w] }))
      ∨ ∃ f, memRead s (txItemAddr s.params s.txIdx) = .error f ∧ dmaTxItem s = .fault f := by
  unfold dmaTxItem
  cases memRead s (txItemAddr s.params s.txIdx) <;> simp

/-- What a callback read can do (R168). -/
theorem cbReadStep_cases (i : Nat) (s : State) :
    (∃ w, cbReadValue i s = .ok w ∧ cbReadStep i s = .next s)
      ∨ ∃ f, cbReadValue i s = .error f ∧ cbReadStep i s = .fault f := by
  unfold cbReadStep
  cases cbReadValue i s <;> simp

/-- What a callback write can do (R169). -/
theorem cbWriteStep_cases (i : Nat) (w : Item) (s : State) :
    (isItemAddr s.params (cbWriteAddr s i) = true
        ∧ cbWriteStep i w s = .next { s with mem := s.mem.writeItem (cbWriteAddr s i) w })
      ∨ (isItemAddr s.params (cbWriteAddr s i) = false
          ∧ cbWriteStep i w s = .fault (.outsideBuffers (cbWriteAddr s i))) := by
  cases h : isItemAddr s.params (cbWriteAddr s i) <;> simp [cbWriteStep, memWrite, h]

/-- Where DISP's entry step goes after the handoff (R165). -/
theorem dispEntry_cases (s : State) :
    ((dispHandoff s).recState = .frameErrorPending ∧ dispEntry s = beginRecovery (dispHandoff s))
      ∨ ((dispHandoff s).recState ≠ .frameErrorPending ∧ (dispHandoff s).dispBlock = true
          ∧ dispEntry s = invokeCallback (dispHandoff s))
      ∨ ((dispHandoff s).recState ≠ .frameErrorPending ∧ (dispHandoff s).dispBlock = false
          ∧ dispEntry s = handlerReturn (dispHandoff s)) := by
  unfold dispEntry
  by_cases h : (dispHandoff s).recState = .frameErrorPending
  · simp [h]
  · cases hb : (dispHandoff s).dispBlock <;> simp [h, hb]

/-- What the acceptance of a word can do (R80, R93, R94). -/
theorem accept_cases (w : Word32) (s : State) :
    (∃ i, decode w = .ok i ∧ accept w s = exec i { s with cmd := w })
      ∨ ∃ e, decode w = .error e ∧ accept w s = .next (raiseError .illegalCommand { s with cmd := w }) := by
  unfold accept
  cases decode w <;> simp

/-- No instruction faults and none is refused: every operation answers a next state (R210, R211). -/
theorem exec_next (i : Instr) (s : State) : ∃ t, exec i s = .next t := by
  cases i <;> exact ⟨_, rfl⟩

/-- A step is one move: the first of `inputs`, or the schedule's. -/
theorem step_eq_of_cons {s : State} {m : Move} {ms : List Move} (h : s.inputs = m :: ms) :
    step s = take m { s with inputs := ms } := by
  simp [step, nextMove, afterChoice, h]

theorem step_eq_of_nil {s : State} (h : s.inputs = []) :
    step s = take (Config.schedule s.tick) { s with tick := s.tick + 1 } := by
  simp [step, nextMove, afterChoice, h]

/-- A move is taken whole, or nothing happens. -/
theorem take_cases (m : Move) (s : State) :
    (enabled m s = true ∧ take m s = act m s) ∨ (enabled m s = false ∧ take m s = .next s) := by
  unfold take
  cases enabled m s <;> simp

@[simp] theorem runMoves_nil (s : State) : runMoves [] s = .next s := rfl

@[simp] theorem andThen_next (s : State) (f : State → Outcome) : andThen (.next s) f = f s := rfl

@[simp] theorem runEach_nil {α : Type} (f : α → State → Outcome) (s : State) : runEach f [] s = .next s := rfl

theorem runEach_cons_next {α : Type} {f : α → State → Outcome} {a : α} {as : List α} {s t : State}
    (h : f a s = .next t) : runEach f (a :: as) s = runEach f as t := by
  simp [runEach, h]

theorem runMoves_cons_next {m : Move} {ms : List Move} {s t : State} (h : take m s = .next t) :
    runMoves (m :: ms) s = runMoves ms t := by
  simp [runMoves, h]

/-- A run of two lists of moves is a run of the first and then of the second. -/
theorem runMoves_append {ms ns : List Move} {s t : State} (h : runMoves ms s = .next t) :
    runMoves (ms ++ ns) s = runMoves ns t := by
  induction ms generalizing s with
  | nil => simp at h; subst h; rfl
  | cons m ms ih =>
    simp only [runMoves, List.cons_append] at h ⊢
    cases hm : take m s with
    | next u =>
      rw [hm] at h
      exact ih h
    | fault f => rw [hm] at h; cases h
    | refused r => rw [hm] at h; cases h

/-- The status flag of a phase after it is cleared or set (R113, R116). -/
theorem cbFlag_clear (sr : BitVec 5) (x : CbPhase) : cbFlag (cbFlagClear sr x) x = false := by
  cases x <;> simp [cbFlag, cbFlagClear, flagBit]

theorem cbFlag_set (sr : BitVec 5) (x : CbPhase) : cbFlag (cbFlagSet sr x) x = true := by
  cases x <;> simp [cbFlag, cbFlagSet, flagBit]

theorem satInc_toNat (c : Word32) : (satInc c).toNat = min (c.toNat + 1) (2 ^ 32 - 1) := by
  unfold satInc
  split
  · rename_i h; subst h; rfl
  · rename_i h
    have h1 : c.toNat < 2 ^ 32 := c.isLt
    have h2 : c.toNat ≠ 2 ^ 32 - 1 := fun e => h (BitVec.eq_of_toNat_eq (by simpa using e))
    rw [BitVec.toNat_add, Nat.mod_eq_of_lt] <;> simp <;> omega

/-- What copying one item does, in the callback phase and inside both blocks: the word read is the word stored
(R168, R169, R178 (3)). -/
theorem copyItem_next {i : Nat} {w : Item} {s : State} (hp : s.dispPhase = .callback)
    (hr : i < s.params.blockItemsRx) (hv : cbReadValue i s = .ok w)
    (ha : isItemAddr s.params (cbWriteAddr s i) = true) :
    copyItem i s = .next { s with mem := s.mem.writeItem (cbWriteAddr s i) w } := by
  simp [copyItem, hv, runMoves, take, enabled, act, hp, hr, cbReadStep, cbWriteStep, memWrite, ha]

end Sys2Proof.Machine
end

