-- ==== Sys2Proof/Laws/PerInstr.lean ====
section
/-! SUPPORT. The statement that is made of every instruction: the word the encoder writes selects the instruction's own
row of the opcode map (R81, R92). -/

namespace Sys2Proof

/-- The encoded word has the row's pattern in every bit of the row's mask (R92). -/
def Laws.WordSelectsRow.Statement (i : Instr) : Prop :=
  i.row ∈ OpcodeRow.table ∧ i.row.selects (encode i) = true

theorem Laws.WordSelectsRow.setup (rate : BitVec 24) : Laws.WordSelectsRow.Statement (.setup rate) := by
  refine ⟨by simp [Instr.row, OpcodeRow.table], ?_⟩
  simp only [OpcodeRow.selects, Instr.row, OpcodeRow.setup, encode, beq_iff_eq]
  refine BitVec.eq_of_getLsbD_eq fun i hi => ?_
  simp only [BitVec.getLsbD_and, BitVec.getLsbD_append]
  interval_cases i <;> simp

theorem Laws.WordSelectsRow.start : Laws.WordSelectsRow.Statement .start := by
  refine ⟨?_, ?_⟩ <;> decide

theorem Laws.WordSelectsRow.disable : Laws.WordSelectsRow.Statement .disable := by
  refine ⟨?_, ?_⟩ <;> decide

theorem Laws.WordSelectsRow.writeRegister (dev : BitVec 7) (reg val : BitVec 8) : Laws.WordSelectsRow.Statement (.writeRegister dev reg val) := by
  refine ⟨by simp [Instr.row, OpcodeRow.table], ?_⟩
  simp only [OpcodeRow.selects, Instr.row, OpcodeRow.writeRegister, encode, beq_iff_eq]
  refine BitVec.eq_of_getLsbD_eq fun i hi => ?_
  simp only [BitVec.getLsbD_and, BitVec.getLsbD_append]
  interval_cases i <;> simp

theorem Laws.WordSelectsRow.readRegister (dev : BitVec 7) (reg : BitVec 8) : Laws.WordSelectsRow.Statement (.readRegister dev reg) := by
  refine ⟨by simp [Instr.row, OpcodeRow.table], ?_⟩
  simp only [OpcodeRow.selects, Instr.row, OpcodeRow.readRegister, encode, beq_iff_eq]
  refine BitVec.eq_of_getLsbD_eq fun i hi => ?_
  simp only [BitVec.getLsbD_and, BitVec.getLsbD_append]
  interval_cases i <;> simp

theorem Laws.WordSelectsRow.getProperty (sel : BitVec 2) : Laws.WordSelectsRow.Statement (.getProperty sel) := by
  refine ⟨by simp [Instr.row, OpcodeRow.table], ?_⟩
  simp only [OpcodeRow.selects, Instr.row, OpcodeRow.getProperty, encode, beq_iff_eq]
  refine BitVec.eq_of_getLsbD_eq fun i hi => ?_
  simp only [BitVec.getLsbD_and, BitVec.getLsbD_append]
  interval_cases i <;> simp

theorem Laws.WordSelectsRow.getStatus (sel : BitVec 4) : Laws.WordSelectsRow.Statement (.getStatus sel) := by
  refine ⟨by simp [Instr.row, OpcodeRow.table], ?_⟩
  simp only [OpcodeRow.selects, Instr.row, OpcodeRow.getStatus, encode, beq_iff_eq]
  refine BitVec.eq_of_getLsbD_eq fun i hi => ?_
  simp only [BitVec.getLsbD_and, BitVec.getLsbD_append]
  interval_cases i <;> simp

theorem Laws.WordSelectsRow.clearUnderrun : Laws.WordSelectsRow.Statement .clearUnderrun := by
  refine ⟨?_, ?_⟩ <;> decide

end Sys2Proof
end

