-- ==== Sys2Proof/Tests/Slice0.lean ====
section
/-! SUPPORT. The model's own tests: words written out from the encoding tables, ill-formed terms that the checks refuse,
one step at a time against the vectors of spec/95_test_vectors.md (named V…), and a witness for the hypotheses of every
obligation that has any. -/

namespace Sys2Proof.Tests

open Sys2Proof.Machine

/-! ### The fixture of spec/95_test_vectors.md -/

def fixture : Params where
  blockFrames := 2
  rxBase := 0x1000
  txBase := 0x2000
  spinLimit := 3
  pllSpinLimit := 3
  clock16000 := ⟨1, 1, 1, false⟩
  clock32000 := ⟨2, 1, 1, false⟩
  clock44100 := ⟨3, 1, 1, true⟩
  codecAddr := 0x1A
  framing := []
  cstartSeq := [(0x02, 0x01)]
  cfeSeq := [(0x03, 0x80)]
  rxBurst := 0
  txBurst := 0

/-- `RESET`. -/
def reset : State := { State.resetWith fixture with wsLine := false }

/-- `CONFIGURED`, its control-bus trace taken as empty. -/
def configured : State :=
  { reset with
    runState := .configured
    cfgValid := true
    cfgRate := 44100
    cfgClk := fixture.clock44100
    cbClkOn := true
    pllLocked := true
    rxIrqEn := ⟨true, true, true, true⟩
    txIrqEn := ⟨true, true⟩
    bufsInit := true
    mem := (zeroBuffers reset).mem }

/-- `RUNNING`: started, no item moved. -/
def running : State :=
  { configured with
    runState := .running
    clocksOn := true
    rxEn := true
    txEn := true
    busEn := true
    extRxEn := true
    rxLineEn := true
    txLineEn := true
    feLineEn := true
    rxNdtr := 8
    txNdtr := 8 }

/-- `RUNNING` after the first block, its event pending. -/
def blockReady : State :=
  { running with rxNdtr := 4, rxProgress := 4, rxFlags := ⟨true, false, false, false⟩ }

/-- As `blockReady`, with a frame error pending. -/
def frameErrorPending : State := { blockReady with recState := .frameErrorPending }

/-- In the callback for half 0, 13 items received and the last sample at 4 (V43-15). -/
def inCallback : State :=
  { running with
    dispPhase := .callback
    dispBlock := true
    readyHalf := 0
    rxNdtr := 3
    rxProgress := 13
    lastProgress := 4 }

/-- In START's word-select wait. -/
def starting : State :=
  { configured with
    clocksOn := true
    rxEn := true
    txEn := true
    busEn := true
    rxNdtr := 8
    txNdtr := 8
    fgBusy := true
    fgProc := some (.start false 3) }

/-- In the recovery sequence, at its failure path. -/
def failing : State :=
  { configured with
    recState := .recovering
    dispPhase := .recover
    dispProc := some (.fail .busTimeout) }

/-- A state whose next move presents a word. -/
def presenting (s : State) (w : Word32) : State := { s with inputs := [.command w] }

/-- One field of an outcome that is a next state. -/
def got {α : Type} (o : Outcome) (f : State → α) : Option α :=
  match o with
  | .next s => some (f s)
  | .fault _ => none
  | .refused _ => none

/-! ### Decoding: words written out bit by bit from R81 -/

theorem test_decode_setup : decode 0b0001_0000_000000001010110001000100#32 = .ok (.setup 44100) := rfl
theorem test_decode_setup_all_bits : decode 0x10FFFFFF = .ok (.setup 16777215) := rfl
theorem test_decode_start : decode 0b0010_0000000000000000000000000000#32 = .ok .start := rfl
theorem test_decode_disable : decode 0b0011_0000000000000000000000000000#32 = .ok .disable := rfl
theorem test_decode_write :
    decode 0b0100_00000_0011010_00000111_01000010#32 = .ok (.writeRegister 0x1A 0x07 0x42) := rfl
theorem test_decode_write_all_bits : decode 0x407FFFFF = .ok (.writeRegister 0x7F 0xFF 0xFF) := rfl
theorem test_decode_read : decode 0b0101_00000_0011010_00000111_00000000#32 = .ok (.readRegister 0x1A 0x07) := rfl
theorem test_decode_property : decode 0b0110_00000000000000000000000000_10#32 = .ok (.getProperty 2) := rfl
theorem test_decode_status : decode 0b0111_000000000000000000000000_1011#32 = .ok (.getStatus 11) := rfl
theorem test_decode_clear : decode 0b1000_0000000000000000000000000000#32 = .ok .clearUnderrun := rfl
theorem test_decode_mbz :
    [0x1100AC44#32, 0x20000001#32, 0x38000000#32, 0x40800000#32, 0x501A0701#32, 0x60000004#32, 0x70000010#32,
      0x80000001#32].map decode = List.replicate 8 (.error .mustBeZero) := rfl
theorem test_decode_reserved :
    [0x00000000#32, 0x90000000#32, 0xA0000000#32, 0xF0000000#32, 0xFFFFFFFF#32].map decode
      = List.replicate 5 (.error .reservedOpcode) := rfl
theorem test_encode_write : encode (.writeRegister 0x1A 0x07 0x42) = 0x401A0742 := rfl
theorem test_table_word : decodeTableWord 32 0x501A0700 = some (.readRegister 0x1A 0x07) := rfl

/-- A line of R97, written back. -/
theorem test_text_line : (Move.command 0x401A0742).line = some "write_register 26, 7, 66" := by decide

/-! ### WellFormed: an ill-formed term for each check -/

theorem test_word_refused_field : wellFormedWord 0x20000001 = false := rfl
theorem test_word_refused_opcode : wellFormedWord 0x90000000 = false := rfl
theorem test_text_refused_setup : TextCommand.wellFormed ⟨.setup, [.num (2 ^ 24)]⟩ = false := rfl
theorem test_text_refused_pseudo :
    TextCommand.wellFormed ⟨.audioHwSetup, [.num (2 ^ 24)]⟩ = false
      ∧ TextCommand.wellFormed ⟨.restart, [.num (2 ^ 24)]⟩ = false := ⟨rfl, rfl⟩
theorem test_text_refused_write :
    TextCommand.wellFormed ⟨.writeRegister, [.num 128, .num 0, .num 0]⟩ = false
      ∧ TextCommand.wellFormed ⟨.writeRegister, [.num 0, .num 256, .num 0]⟩ = false
      ∧ TextCommand.wellFormed ⟨.writeRegister, [.num 0, .num 0, .num 256]⟩ = false := ⟨rfl, rfl, rfl⟩
theorem test_text_refused_read :
    TextCommand.wellFormed ⟨.readRegister, [.num 128, .num 0]⟩ = false
      ∧ TextCommand.wellFormed ⟨.readRegister, [.num 0, .num 256]⟩ = false := ⟨rfl, rfl⟩
theorem test_text_refused_selector :
    TextCommand.wellFormed ⟨.getProperty, [.num 4]⟩ = false
      ∧ TextCommand.wellFormed ⟨.getStatus, [.num 16]⟩ = false
      ∧ TextCommand.wellFormed ⟨.getProperty, [.status .rxNdtr]⟩ = false := ⟨rfl, rfl, rfl⟩
theorem test_text_refused_count :
    TextCommand.wellFormed ⟨.start, [.num 0]⟩ = false ∧ TextCommand.wellFormed ⟨.setup, []⟩ = false := ⟨rfl, rfl⟩
theorem test_params_valid : fixture.Valid := by decide
theorem test_params_refused_block : ¬{ fixture with blockFrames := 0 }.Valid := by decide
theorem test_params_refused_count : ¬{ fixture with blockFrames := 16384, txBase := 0x100000 }.Valid := by decide
theorem test_params_refused_odd_rx : ¬{ fixture with rxBase := 0x1001 }.Valid := by decide
theorem test_params_refused_odd_tx : ¬{ fixture with txBase := 0x2001 }.Valid := by decide
theorem test_params_refused_overlap : ¬{ fixture with txBase := 0x100E }.Valid := by decide
theorem test_params_refused_spin : ¬{ fixture with spinLimit := 0 }.Valid := by decide
theorem test_params_refused_pll_spin : ¬{ fixture with pllSpinLimit := 0 }.Valid := by decide

/-! ### One step at a time -/

/-- V42-2. -/
theorem test_setup_unsupported :
    got (exec (.setup 48000) reset) (fun s => (s.rspErr, s.lastError, s.runState))
      = some (.unsupportedRate, .unsupportedRate, .uninitialized) := rfl
/-- V42-3, V60-3: the rate is tested before the run state. -/
theorem test_setup_running :
    got (exec (.setup 48000) running) (·.rspErr) = some .unsupportedRate
      ∧ got (exec (.setup 44100) running) (fun s => (s.rspErr, s.pllLocked)) = some (.invalidState, true) := ⟨rfl, rfl⟩
/-- V42-7, V42-10. -/
theorem test_start_refused :
    got (exec .start reset) (·.rspErr) = some .invalidState ∧ got (exec .start running) (·.rspErr) = some .invalidState :=
  ⟨rfl, rfl⟩
/-- P1 step 10. -/
theorem test_start_arms :
    got (exec .start configured) (fun s => (s.rxNdtr, s.txNdtr, s.readyHalf, s.clocksOn, s.extRxEn))
      = some (8, 8, 1, true, false) := rfl
/-- V42-13. -/
theorem test_disable_keeps_count :
    got (exec .disable { running with rxNdtr := 5 }) (fun s => (s.runState, s.rxNdtr, enablesWord s))
      = some (.configured, 5, 0x0C60) := rfl
/-- V42-11. -/
theorem test_disable_cold : got (exec .disable reset) (fun s => (s.runState, s.rspErr)) = some (.uninitialized, .ok) := rfl
/-- V41-13, V41-14. -/
theorem test_register_refused :
    got (exec (.writeRegister 0x1A 7 0x42) reset) (·.rspErr) = some .invalidState
      ∧ got (exec (.readRegister 0x1A 7) running) (fun s => (s.rspErr, s.cbTrace)) = some (.invalidState, []) := ⟨rfl, rfl⟩
/-- P2 step 1: the address phase's request puts `TX(0x34)` on the bus. -/
theorem test_write_address_request :
    got (.next (fgStepAt (.transaction ⟨.write 0x1A 7 0x42, .addr, .request, 0⟩) configured))
      (fun s => (s.cbTrace, s.cbWait)) = some ([.tx 0x34], some .addr) := rfl
/-- V41-8: the repeated address has the direction bit set. -/
theorem test_read_address_request :
    got (.next (fgStepAt (.transaction ⟨.read 0x1A 7, .readAddr, .request, 0⟩) configured))
      (fun s => (s.cbTrace, s.cbWait)) = some ([.tx 0x35], some .addr) := rfl
/-- V45-2, V45-3. -/
theorem test_property :
    got (exec (.getProperty 0) reset) (·.rspErr) = some .invalidState
      ∧ [0#2, 1#2, 2#2, 3#2].map (fun sel => got (exec (.getProperty sel) configured) (·.rspData))
        = [some 0xAC44, some 2, some 2, some 2] := ⟨rfl, rfl⟩
/-- V45-4. -/
theorem test_status_configured :
    [0#4, 12#4, 13#4, 14#4, 9#4, 11#4].map (fun sel => got (exec (.getStatus sel) configured) (·.rspData))
      = [some 1, some 0x0C60, some 0xF0, some 0xC0, some 0, some 1] := rfl
/-- V45-5. -/
theorem test_status_running :
    [0#4, 12#4, 9#4, 10#4, 11#4].map (fun sel => got (exec (.getStatus sel) running) (·.rspData))
      = [some 2, some 0x0FFF, some 8, some 8, some 1] := rfl
/-- V45-6, V45-7. -/
theorem test_clear_underrun :
    got (exec .clearUnderrun { configured with underrunFlag := true, underrunCount := 1 })
        (fun s => (s.rspData, s.underrunFlag, s.underrunCount)) = some (1, false, 1)
      ∧ got (exec .clearUnderrun reset) (·.rspData) = some 0 := ⟨rfl, rfl⟩
/-- V42-14. -/
theorem test_rx_first_item :
    got (take (.dmaRx 0x1234) running) (fun s => (s.mem.byteAt 0x1000, s.mem.byteAt 0x1001, s.rxNdtr, s.rxFlags.ht))
      = some (some 0x34, some 0x12, 7, false) := rfl
/-- V42-15, V42-17: the two events, and the reload. -/
theorem test_rx_events :
    got (take (.dmaRx 0xFFFF) { running with rxNdtr := 5 }) (fun s => (s.mem.itemAt 0x1006, s.rxNdtr, s.rxFlags))
        = some (some 0xFFFF, 4, ⟨true, false, false, false⟩)
      ∧ got (take (.dmaRx 0x8000) { running with rxNdtr := 1 }) (fun s => (s.mem.itemAt 0x100E, s.rxNdtr, s.rxFlags))
        = some (some 0x8000, 8, ⟨false, true, false, false⟩) := ⟨rfl, rfl⟩
/-- V42-19, V42-20. -/
theorem test_tx_item :
    got (take .dmaTx { running with mem := running.mem.writeItem 0x2000 0x00A0 }) (fun s => (s.txTrace, s.txNdtr))
        = some ([0x00A0], 7)
      ∧ got (take .dmaTx { running with txNdtr := 1 }) (·.txNdtr) = some 8 := ⟨rfl, rfl⟩
/-- V42-21: nothing of the stream is enabled in `CONFIGURED`. -/
theorem test_configured_quiet :
    [Move.dmaRx 0, .dmaTx, .frameError, .dmaError .rx .te].map (fun m => enabled m configured)
      = List.replicate 4 false := rfl
/-- V43-1. -/
theorem test_entry_half :
    got (take .dispEntry blockReady) (fun s => (s.rxFlags.ht, s.readyHalf, s.callbackCount, s.callTrace, s.dispPhase))
      = some (false, 0, 1, [0], .callback) := rfl
/-- R253: with both block flags set the half-transfer assignment wins, and one callback is owed. -/
theorem test_entry_both_flags :
    got (take .dispEntry { blockReady with rxFlags := ⟨true, true, false, false⟩ })
      (fun s => (s.readyHalf, s.callbackCount, s.rxFlags)) = some (0, 1, ⟨false, false, false, false⟩) := rfl
/-- V43-15. -/
theorem test_exit_underrun :
    got (take .dispExit inCallback) (fun s => (s.underrunFlag, s.underrunCount, s.lastProgress, s.dispPhase))
      = some (true, 1, 13, .idle) := rfl
/-- V43-14: equal is not greater. -/
theorem test_exit_no_underrun :
    got (take .dispExit { inCallback with rxProgress := 12 }) (fun s => (s.underrunFlag, s.underrunCount))
      = some (false, 0) := rfl
/-- V43-21. -/
theorem test_txh_both :
    got (take .txh { running with txFlags := ⟨true, true⟩ }) (fun s => (s.teCount, s.dmeCount, s.txFlags))
      = some (1, 1, ⟨false, false⟩) := rfl
/-- V44-1. -/
theorem test_feh :
    got (take .feh { running with feStatus := true }) (fun s => (s.feStatus, s.recState, s.runState))
      = some (false, .frameErrorPending, .running) := rfl
/-- V43-8. -/
theorem test_entry_recovery :
    got (take .dispEntry frameErrorPending) (fun s => (s.recState, s.runState, s.dispPhase, s.callbackCount))
      = some (.recovering, .faulted, .recover, 0) := rfl
/-- V44-6, its last step. -/
theorem test_recovery_fail :
    got (take .disp failing) (fun s => (enablesWord s, s.runState, s.recState, s.lastError, s.recoveryFailCount))
      = some (0x0C60, .faulted, .normal, .busTimeout, 1) := rfl
/-- V60-1: of three requesting lines DISP's goes first, and FG waits. -/
theorem test_priority :
    [Move.dispEntry, .txh, .feh, .command 0x80000000].map (fun m =>
        enabled m { running with rxFlags := ⟨false, false, true, false⟩, txFlags := ⟨true, false⟩, feStatus := true })
      = [true, false, false, false] := rfl
/-- The address bytes of section 2.1. -/
theorem test_addr_bytes :
    [addrByte 0x1A 0, addrByte 0x1A 1, addrByte 0 0, addrByte 0x7F 0, addrByte 0x7F 1, addrByte 0x50 0]
      = [0x34, 0x35, 0x00, 0xFE, 0xFF, 0xA0] := rfl
/-- The word placed for the fetch is the one the next step runs. -/
theorem test_fetch_runs :
    got (step (reset.withFetchWord 32 0x7000000B)) (fun s => (s.rspErr, s.rspData, s.inputs)) = some (.ok, 1, []) := rfl

/-! ### States that meet the invariant -/

/-- What is left to check of `Inv` when no transaction is in progress and memory is in order. -/
def simpleCheck (s : State) : Bool :=
  (s.fgBusy == s.fgProc.isSome)
    && (!s.fgBusy || (decide (s.dispPhase = .idle) && decide (s.runState = .configured) && s.clocksOn
      && !s.rxLineEn && !s.txLineEn && !s.feLineEn))
    && (s.dispProc.isSome == decide (s.dispPhase = .recover))
    && (decide (s.recState = .recovering) == decide (s.dispPhase = .recover))
    && (decide (s.dispPhase = .idle) || s.bufsInit)
    && (!decide (s.dispPhase = .callback) || decide (s.runState = .running))
    && !decide (s.runState = .faulted) && (decide (s.runState = .uninitialized) == !s.cfgValid)
    && (!decide (s.recState = .frameErrorPending) || decide (s.runState = .running))
    && (!s.cfgValid || (s.bufsInit && (rateOf s.cfgRate).isSome && decide (s.rxIrqEn = ⟨true, true, true, true⟩)
      && decide (s.txIrqEn = ⟨true, true⟩)))
    && (!decide (s.runState = .running) || (s.clocksOn && s.extRxEn && s.rxLineEn && s.txLineEn && s.feLineEn))
    && (decide (s.runState = .running) || (!s.rxLineEn && !s.txLineEn && !s.feLineEn && !s.extRxEn))
    && (s.rxEn == s.clocksOn) && (s.txEn == s.clocksOn) && (s.busEn == s.clocksOn)
    && (!s.clocksOn || (decide (s.runState = .running) || s.fgBusy))
    && (!s.clocksOn || (s.bufsInit && decide (s.rxNdtr.toNat = s.params.nRx - s.rxProgress % s.params.nRx)
      && decide (s.txNdtr.toNat = s.params.nTx - s.txProgress % s.params.nTx)))
    && decide (s.lastProgress ≤ s.rxProgress) && (!s.feStatus || s.extRxEn)
    && (decide (s.rxFlags = ⟨false, false, false, false⟩) || s.clocksOn)
    && (decide (s.txFlags = ⟨false, false⟩) || s.clocksOn)
    && decide (s.cbWait = none) && decide (s.cbSr = 0)

theorem inv_of_simple {s : State} (valid : s.params.Valid) (memory : MemoryInv s)
    (fg : s.fgProc = none ∨ ∃ w n, s.fgProc = some (.start w n))
    (disp : s.dispProc = none ∨ ∃ e, s.dispProc = some (.fail e)) (check : simpleCheck s = true) : Inv s := by
  simp only [simpleCheck, Bool.and_eq_true, Bool.or_eq_true, Bool.not_eq_true', decide_eq_true_eq, beq_iff_eq,
    decide_eq_false_iff_not] at check
  obtain ⟨⟨⟨⟨⟨⟨⟨⟨⟨⟨⟨⟨⟨⟨⟨⟨⟨⟨⟨⟨⟨⟨c1, c2⟩, c3⟩, c4⟩, c5⟩, c6⟩, c7⟩, c8⟩, c9⟩, c10⟩, c11⟩, c12⟩,
    c13⟩, c14⟩, c15⟩, c16⟩, c17⟩, c18⟩, c19⟩, c20⟩, c21⟩, c22⟩, c23⟩ := check
  have htx : s.txn? = none := by
    rcases fg with h | ⟨w, n, h⟩ <;> rcases disp with h' | ⟨e, h'⟩ <;>
      simp [State.txn?, h, h', FgProc.txn?, RecoveryProc.txn?]
  refine ⟨valid, ⟨c1, ?_, ?_, ?_, ?_⟩, ⟨?_, ?_, ?_, ?_, ?_, ?_, ?_, ?_⟩, ⟨?_, ?_, ?_, ?_, ?_⟩,
    ⟨⟨c13, c14, c15⟩, ?_, ?_, ?_, ?_, ?_, c18, ?_, ?_, ?_⟩, ⟨?_, ?_⟩, memory⟩
  all_goals clear valid memory
  all_goals try (intro; simp_all; done)
  all_goals try grind

theorem memory_zeroed (s : State) (valid : s.params.Valid)
    (h : s.mem = zeroItems s.params.txBase s.params.nTx (zeroItems s.params.rxBase s.params.nRx [])) :
    MemoryInv s := by
  refine ⟨?_, ?_, ?_⟩
  · rw [h]; exact zeroItems_wf _ _ (zeroItems_wf _ _ List.Pairwise.nil)
  · intro c hc
    rw [h] at hc
    rcases mem_zeroItems hc with hc | hc
    · right; simp only [Params.dbufBytesTx, Config.itemBytes]; omega
    · rcases mem_zeroItems hc with hc | hc
      · left; simp only [Params.dbufBytesRx, Config.itemBytes]; omega
      · cases hc
  · intro _ a ha
    rw [h, byteAt_zeroItems, byteAt_zeroItems]
    simp only [inBuffers, Params.dbufBytesRx, Params.dbufBytesTx, Config.itemBytes] at ha
    split_ifs <;> first | rfl | omega

theorem inv_reset : Inv reset :=
  inv_of_simple (by decide) ⟨List.Pairwise.nil, by simp [reset, State.resetWith], by simp [reset, State.resetWith]⟩
    (.inl rfl) (.inl rfl) rfl

/-- A state over the zeroed buffers meets the invariant if the rest of it checks. -/
theorem inv_of_zeroed {s : State} (hp : s.params = fixture) (hm : s.mem = configured.mem)
    (fg : s.fgProc = none ∨ ∃ w n, s.fgProc = some (.start w n))
    (disp : s.dispProc = none ∨ ∃ e, s.dispProc = some (.fail e)) (check : simpleCheck s = true) : Inv s :=
  inv_of_simple (by rw [hp]; exact test_params_valid)
    (memory_zeroed s (by rw [hp]; exact test_params_valid) (by rw [hm, hp]; rfl)) fg disp check

theorem inv_configured : Inv configured := inv_of_zeroed rfl rfl (.inl rfl) (.inl rfl) rfl
theorem inv_running : Inv running := inv_of_zeroed rfl rfl (.inl rfl) (.inl rfl) rfl
theorem inv_blockReady : Inv blockReady := inv_of_zeroed rfl rfl (.inl rfl) (.inl rfl) rfl
theorem inv_frameErrorPending : Inv frameErrorPending := inv_of_zeroed rfl rfl (.inl rfl) (.inl rfl) rfl
theorem inv_inCallback : Inv inCallback := inv_of_zeroed rfl rfl (.inl rfl) (.inl rfl) rfl
theorem inv_starting : Inv starting := inv_of_zeroed rfl rfl (.inr ⟨_, _, rfl⟩) (.inl rfl) rfl
theorem inv_failing : Inv failing := inv_of_zeroed rfl rfl (.inl rfl) (.inr ⟨_, rfl⟩) rfl
theorem inv_frameError : Inv { running with feStatus := true } := inv_of_zeroed rfl rfl (.inl rfl) (.inl rfl) rfl
theorem inv_frameErrorSeen : Inv { running with recState := .frameErrorPending } :=
  inv_of_zeroed rfl rfl (.inl rfl) (.inl rfl) rfl
theorem inv_starting_toggled : Inv { starting with wsLine := true } :=
  inv_of_zeroed rfl rfl (.inr ⟨_, _, rfl⟩) (.inl rfl) rfl

/-! ### Witnesses: for each obligation with hypotheses, a concrete state and operands that meet them together -/

theorem rate_16000 : RateClock fixture 16000 fixture.clock16000 := .inl ⟨rfl, rfl⟩
theorem rate_32000 : RateClock fixture 32000 fixture.clock32000 := .inr (.inl ⟨rfl, rfl⟩)
theorem rate_44100 : RateClock fixture 44100 fixture.clock44100 := .inr (.inr ⟨rfl, rfl⟩)

theorem witness_EncodeOfDecode : decode 0x10FFFFFF = .ok (.setup 0xFFFFFF) := rfl

theorem witness_StepRunsDecodedCommand :
    (presenting reset 0x1000AC44).inputs = .command 0x1000AC44 :: [] ∧ acceptsCommand (presenting reset 0x1000AC44) = true
      ∧ decode 0x1000AC44 = .ok (.setup 44100) := ⟨rfl, rfl, rfl⟩

theorem witness_IllegalCommandOnlyReports :
    ((presenting running 0x00000000).inputs = .command 0x00000000 :: [] ∧ acceptsCommand running = true
        ∧ running.fgProc = none)
      ∧ (0x00000000#32).toNat / 2 ^ 28 = 0 ∧ 9 ≤ (0x90000000#32).toNat / 2 ^ 28
      ∧ 9 ≤ (0xFFFFFFFF#32).toNat / 2 ^ 28
      ∧ ∀ r ∈ OpcodeRow.table, 0x20000001#32 &&& r.mask ≠ r.pattern := by
  refine ⟨⟨rfl, rfl, rfl⟩, by decide, by decide, by decide, by decide⟩

theorem witness_UnacceptedCommandChangesNothing :
    (presenting blockReady 0x30000000).inputs = .command 0x30000000 :: []
      ∧ acceptsCommand (presenting blockReady 0x30000000) = false ∧ acceptsCommand starting = false := ⟨rfl, rfl, rfl⟩

theorem witness_SetupBegins :
    RateClock reset.params 16000 fixture.clock16000 ∧ RateClock reset.params 32000 fixture.clock32000
      ∧ RateClock reset.params 44100 fixture.clock44100 ∧ reset.runState ≠ .running ∧ configured.runState ≠ .running :=
  ⟨rate_16000, rate_32000, rate_44100, by decide, by decide⟩

theorem witness_UnsupportedRateChangesNothing :
    Unsupported 0 ∧ Unsupported 44101 ∧ Unsupported 48000 ∧ Unsupported 0xFFFFFF := by
  simp only [Unsupported]; decide

theorem witness_SetupSucceeds_first :
    Inv reset ∧ acceptsCommand reset = true ∧ reset.runState ≠ .running
      ∧ RateClock reset.params 44100 fixture.clock44100 ∧ reset.bufsInit = false :=
  ⟨inv_reset, rfl, by decide, rate_44100, rfl⟩

theorem witness_SetupSucceeds_again :
    Inv configured ∧ acceptsCommand configured = true ∧ configured.runState ≠ .running
      ∧ RateClock configured.params 16000 fixture.clock16000 ∧ configured.bufsInit = true :=
  ⟨inv_configured, rfl, by decide, rate_16000, rfl⟩

theorem witness_SetupPllLockTimeout :
    acceptsCommand reset = true ∧ reset.runState ≠ .running ∧ RateClock reset.params 32000 fixture.clock32000
      ∧ 1 ≤ reset.params.pllSpinLimit := ⟨rfl, by decide, rate_32000, by decide⟩

theorem witness_SetupCodecTimeout :
    Inv configured ∧ acceptsCommand configured = true ∧ configured.runState ≠ .running
      ∧ RateClock configured.params 44100 fixture.clock44100
      ∧ configured.params.cstartSeq = [] ++ (0x02, 0x01) :: [] :=
  ⟨inv_configured, rfl, by decide, rate_44100, rfl⟩

theorem witness_StartArmsBothChannels : configured.runState = .configured := rfl

theorem witness_StartRunsOnTransition :
    acceptsCommand configured = true ∧ configured.runState = .configured ∧ 0 < configured.params.spinLimit
      ∧ 2 < configured.params.spinLimit := ⟨rfl, rfl, by decide, by decide⟩

theorem witness_StartTimesOut :
    acceptsCommand configured = true ∧ configured.runState = .configured ∧ 1 ≤ configured.params.spinLimit :=
  ⟨rfl, rfl, by decide⟩

theorem witness_DisableStopsTheStream :
    running.dispPhase = .idle ∧ exec .disable running = .next (succeed 0 (doDisable running))
      ∧ ∀ m ∈ [Move.dmaRx 1, .dmaTx, .frameError, .dispEntry, .fg], ∀ w, m ≠ .command w := ⟨rfl, rfl, by simp⟩

theorem witness_RegisterOpsBegin : configured.cbClkOn = true ∧ configured.runState ≠ .running := ⟨rfl, by decide⟩

theorem witness_WriteRegisterAcknowledged :
    Inv configured ∧ acceptsCommand configured = true ∧ configured.cbClkOn = true ∧ configured.runState ≠ .running
      ∧ [0, 2, 0, 1, 0].length = 5 ∧ ∀ k ∈ [0, 2, 0, 1, 0], k < configured.params.spinLimit :=
  ⟨inv_configured, rfl, rfl, by decide, rfl, by decide⟩

theorem witness_ReadRegisterAcknowledged :
    Inv configured ∧ acceptsCommand configured = true ∧ configured.cbClkOn = true ∧ configured.runState ≠ .running
      ∧ [0, 2, 0, 1, 0, 2, 0].length = 7 ∧ ∀ k ∈ [0, 2, 0, 1, 0, 2, 0], k < configured.params.spinLimit :=
  ⟨inv_configured, rfl, rfl, by decide, rfl, by decide⟩

theorem witness_TextCommandsAssemble :
    ((PropertyName.outChannels, 3, "out_channels") ∈ propertyNumbers
        ∧ (StatusName.recoveryFailCount, 15, "recovery_fail_count") ∈ statusNumbers)
      ∧ TextCommand.assemble ⟨.setup, [.num (2 ^ 24 - 1)]⟩ = some [.setup 0xFFFFFF]
      ∧ TextCommand.assemble ⟨.setup, [.num (2 ^ 24)]⟩ = none
      ∧ TextCommand.assemble ⟨.writeRegister, [.num 127, .num 255, .num 255]⟩ = some [.writeRegister 127 255 255]
      ∧ TextCommand.assemble ⟨.writeRegister, [.num 127, .num 255, .num 256]⟩ = none
      ∧ TextCommand.assemble ⟨.readRegister, [.num 128, .num 255]⟩ = none := by decide

/-- The examples of R118 and R119 as the faithful simulator of R123 sees them: the cell is what the write frame carried,
and a frame addressed to another device leaves it alone. -/
theorem test_simulator_reads_the_bus :
    simByte 0x1A (fun _ => 0) 0xEE
        [.s, .tx 0x34, .tx 0x07, .tx 0x42, .p, .s, .tx 0x34, .tx 0x07, .sr, .tx 0x35] = 0x42
      ∧ simByte 0x1A (fun _ => 0) 0xEE
        [.s, .tx 0x36, .tx 0x07, .tx 0x42, .p, .s, .tx 0x34, .tx 0x07, .sr, .tx 0x35] = 0
      ∧ simByte 0x1A (fun _ => 0) 0xEE [.s, .tx 0x34, .tx 0x07, .tx 0x42, .p] = 0xEE := by decide

theorem witness_RegisterRoundTrip :
    Inv configured ∧ acceptsCommand configured = true ∧ configured.cbClkOn = true ∧ configured.runState ≠ .running
      ∧ frameByte configured.params 0x07 0x42 = frameByte configured.params 0x07 0 :=
  ⟨inv_configured, rfl, rfl, by decide, rfl⟩

theorem witness_StalledBusTimesOut :
    Inv configured ∧ acceptsCommand configured = true ∧ configured.cbClkOn = true ∧ configured.runState ≠ .running
      ∧ (∃ dev reg val, Instr.writeRegister 0x1A 0x08 0x55 = .writeRegister dev reg val)
      ∧ (∃ dev reg, Instr.readRegister 0x1A 0x07 = .readRegister dev reg) ∧ 0 < configured.params.spinLimit :=
  ⟨inv_configured, rfl, rfl, by decide, ⟨_, _, _, rfl⟩, ⟨_, _, rfl⟩, by decide⟩

theorem witness_StallAtAnyPhase :
    Inv configured ∧ acceptsCommand configured = true ∧ configured.cbClkOn = true ∧ configured.runState ≠ .running
      ∧ (∀ k ∈ [0, 1, 2, 0], k < configured.params.spinLimit) ∧ [0, 1, 2, 0].length < 5
      ∧ (∀ k ∈ [0, 1, 2, 0, 0, 0], k < configured.params.spinLimit) ∧ [0, 1, 2, 0, 0, 0].length < 7 :=
  ⟨inv_configured, rfl, rfl, by decide, by decide, by decide, by decide, by decide⟩

theorem witness_InvalidStateRaised :
    (¬Unsupported 44100 ∧ running.runState = .running) ∧ reset.runState ≠ .configured ∧ running.runState ≠ .configured
      ∧ reset.cbClkOn = false ∧ reset.cfgValid = false := by
  refine ⟨⟨by simp only [Unsupported]; decide, rfl⟩, by decide, by decide, rfl, rfl⟩

theorem witness_GetPropertyValues : configured.cfgValid = true := rfl

theorem witness_GetStatusConstrained :
    Inv running ∧ acceptsCommand running = true ∧ running.rxLineEn = true ∧ running.txLineEn = true
      ∧ running.feLineEn = true ∧ (∃ t, exec (.getStatus 13) running = .next t)
      ∧ (∃ t, exec (.getStatus 14) running = .next t) ∧ (∃ t, exec (.getStatus 12) running = .next t)
      ∧ ∃ t, exec (.getStatus 1) running = .next t :=
  ⟨inv_running, rfl, rfl, rfl, rfl, ⟨_, rfl⟩, ⟨_, rfl⟩, ⟨_, rfl⟩, ⟨_, rfl⟩⟩

theorem witness_OperationsAfterReset :
    RateClock fixture 44100 fixture.clock44100 ∧ Unsupported 48000 :=
  ⟨rate_44100, by simp only [Unsupported]; decide⟩

theorem witness_ResetMeetsInvariant : fixture.Valid := by decide

theorem witness_EveryStepKeepsInvariant :
    Inv (presenting running 0x30000000) ∧ ∃ t, step (presenting running 0x30000000) = .next t :=
  ⟨inv_of_zeroed rfl rfl (.inl rfl) (.inl rfl) rfl, ⟨_, rfl⟩⟩

theorem witness_EveryStepAnswersNext : Inv running := inv_running

theorem witness_OnlyTheseStepsChangeModes_recState :
    (Inv { running with feStatus := true } ∧ got (take .feh { running with feStatus := true }) (·.recState)
        = some .frameErrorPending)
      ∧ (Inv frameErrorPending ∧ got (take .dispEntry frameErrorPending) (·.recState) = some .recovering)
      ∧ (Inv failing ∧ got (take .disp failing) (·.recState) = some .normal)
      ∧ (Inv { running with recState := .frameErrorPending }
          ∧ got (take (.command 0x30000000) { running with recState := .frameErrorPending }) (·.recState)
            = some .normal) :=
  ⟨⟨inv_frameError, rfl⟩, ⟨inv_frameErrorPending, rfl⟩, ⟨inv_failing, rfl⟩, ⟨inv_frameErrorSeen, rfl⟩⟩

theorem witness_OnlyTheseStepsChangeModes_runState :
    (Inv frameErrorPending ∧ got (take .dispEntry frameErrorPending) (·.runState) = some .faulted)
      ∧ (Inv running ∧ got (take (.command 0x30000000) running) (·.runState) = some .configured)
      ∧ (Inv { starting with wsLine := true } ∧ got (take .fg { starting with wsLine := true }) (·.runState)
          = some .running)
      ∧ (Inv failing ∧ got (take .disp failing) (·.runState) = some .faulted) :=
  ⟨⟨inv_frameErrorPending, rfl⟩, ⟨inv_running, rfl⟩, ⟨inv_starting_toggled, rfl⟩, ⟨inv_failing, rfl⟩⟩

theorem witness_OnlyTheseStepsChangeModes_readyHalf :
    Inv blockReady ∧ blockReady.readyHalf = 1 ∧ got (take .dispEntry blockReady) (·.readyHalf) = some 0 :=
  ⟨inv_blockReady, rfl, rfl⟩

theorem witness_CountersOnlyCountEvents :
    got (take .dispExit inCallback) (·.underrunCount) = some 1 ∧ got (take .disp failing) (·.recoveryFailCount) = some 1
      ∧ got (take .dispEntry blockReady) (·.callbackCount) = some 1 := ⟨rfl, rfl, rfl⟩

theorem witness_ConfigurationFixedWhileRunning :
    Inv running ∧ running.runState = .running ∧ ∃ t, take (.command 0x1000AC44) running = .next t :=
  ⟨inv_running, rfl, ⟨_, rfl⟩⟩

theorem witness_OnlyTheseStepsWriteMemory :
    (Inv running ∧ running.mem.byteAt 0x1000 = some 0
        ∧ got (take (.dmaRx 0x1234) running) (·.mem.byteAt 0x1000) = some (some 0x34))
      ∧ (Inv inCallback ∧ inCallback.mem.byteAt 0x2007 = some 0
        ∧ got (take (.cbWrite 3 0x1234) inCallback) (·.mem.byteAt 0x2007) = some (some 0x12)) :=
  ⟨⟨inv_running, rfl, rfl⟩, ⟨inv_inCallback, rfl, rfl⟩⟩

theorem witness_ReceiveItemStep :
    Inv running ∧ dmaRxEnabled running = true ∧ 0x1000 = running.params.rxBase + 2 * (running.params.nRx - 8) :=
  ⟨inv_running, rfl, rfl⟩

theorem witness_ReceiveItemStep_last :
    Inv { running with rxNdtr := 1, rxProgress := 7 } ∧ dmaRxEnabled { running with rxNdtr := 1, rxProgress := 7 } = true
      ∧ 0x100E = running.params.rxBase + 2 * (running.params.nRx - 1) :=
  ⟨inv_of_zeroed rfl rfl (.inl rfl) (.inl rfl) rfl, rfl, rfl⟩

theorem witness_TransmitItemStep : Inv starting ∧ dmaTxEnabled starting = true := ⟨inv_starting, rfl⟩

theorem just_started : JustStarted running :=
  ⟨inv_running, rfl, rfl, rfl, ⟨rfl, rfl, rfl⟩, rfl⟩

theorem witness_ReceiveRunFillsTheBuffer : JustStarted running := just_started

theorem witness_DispatcherEntry :
    (blockReady.dispPhase = .idle ∧ irqRx blockReady = true ∧ blockReady.recState ≠ .frameErrorPending)
      ∧ (irqRx { running with rxFlags := ⟨false, true, true, true⟩ } = true
        ∧ irqRx { running with rxFlags := ⟨false, false, true, false⟩ } = true) :=
  ⟨⟨rfl, rfl, by decide⟩, rfl, rfl⟩

theorem witness_PendingFrameErrorStartsRecovery :
    frameErrorPending.dispPhase = .idle ∧ irqRx frameErrorPending = true
      ∧ frameErrorPending.recState = .frameErrorPending := ⟨rfl, rfl, rfl⟩

theorem witness_DispatcherExit : inCallback.dispPhase = .callback := rfl

theorem witness_CallbackAccesses :
    Inv inCallback ∧ inCallback.dispPhase = .callback ∧ 3 < inCallback.params.blockItemsRx
      ∧ 3 < inCallback.params.blockItemsTx ∧ inCallback.params.blockItemsRx ≤ 4 ∧ inCallback.params.blockItemsTx ≤ 4 :=
  ⟨inv_inCallback, rfl, by decide, by decide, by decide, by decide⟩

theorem witness_ErrorHandlers :
    (irqRx { running with txFlags := ⟨true, false⟩ } = false ∧ irqTx { running with txFlags := ⟨true, false⟩ } = true)
      ∧ (running.dispPhase = .idle ∧ irqTx { running with feStatus := true } = false
        ∧ irqFe { running with feStatus := true } = true) := ⟨⟨rfl, rfl⟩, rfl, rfl, rfl⟩

theorem witness_OneProcessor : Inv starting ∧ starting.fgBusy = true := ⟨inv_starting, rfl⟩

theorem witness_PromptRunAlternatesHalves :
    JustStarted running ∧ ∀ ws ∈ [[1#16, 2#16, 3#16, 4#16], [5#16, 6#16, 7#16, 8#16]],
      ws.length = running.params.blockItemsRx := ⟨just_started, by decide⟩

theorem witness_CopyRunDelaysByTwoBlocks :
    JustStarted running ∧ (∀ ws ∈ [[1#16, 2#16, 3#16, 4#16]], ws.length = running.params.blockItemsRx)
      ∧ ∀ i < running.params.nTx, running.mem.itemAt (running.params.txBase + 2 * i) = some 0 :=
  ⟨just_started, by decide, by decide⟩

theorem witness_EnvironmentSteps :
    { running with pllLocked := false }.pllLocked = false
      ∧ (running.extRxEn = true ∧ running.feStatus = false) ∧ (running.rxEn = true ∧ running.clocksOn = true)
      ∧ running.txEn = true
      ∧ enabled .pllLock { running with pllLocked := true } = false
      ∧ enabled .frameError { running with feStatus := true } = false
      ∧ enabled (.dmaError .rx .te) configured = false ∧ enabled (.dmaError .tx .dme) configured = false :=
  ⟨rfl, ⟨rfl, rfl⟩, ⟨rfl, rfl⟩, rfl, rfl, rfl, rfl, rfl⟩

theorem witness_ControlBusAcknowledge :
    configured.cbWait = none
      ∧ ({ configured with cbWait := some .rxd }.cbWait = some .rxd ∧ cbFlag configured.cbSr .rxd = false)
      ∧ cbFlag ({ configured with cbWait := some .rxd, cbSr := 0b01000 }).cbSr .rxd = true := ⟨rfl, ⟨rfl, rfl⟩, rfl⟩

theorem witness_FrameErrorRecovers :
    Inv frameErrorPending ∧ frameErrorPending.dispPhase = .idle ∧ irqRx frameErrorPending = true
      ∧ frameErrorPending.recState = .frameErrorPending
      ∧ RateClock frameErrorPending.params frameErrorPending.cfgRate fixture.clock44100 :=
  ⟨inv_frameErrorPending, rfl, rfl, rfl, rate_44100⟩

theorem witness_RecoveryPllLockTimeout :
    Inv frameErrorPending ∧ frameErrorPending.dispPhase = .idle ∧ irqRx frameErrorPending = true
      ∧ frameErrorPending.recState = .frameErrorPending := ⟨inv_frameErrorPending, rfl, rfl, rfl⟩

theorem witness_RecoveryFailureStep :
    failing.dispPhase = .recover ∧ failing.dispProc = some (.fail .busTimeout) ∧ failing.recState = .recovering :=
  ⟨rfl, rfl, rfl⟩

theorem witness_EveryProcedureStepShrinksItsWork :
    (starting.fgBusy = true ∧ starting.fgProc = some (.start false 3) ∧ fgMayStep starting = true
        ∧ ∃ t, take .fg starting = .next t)
      ∧ (failing.dispPhase = .recover ∧ failing.dispProc = some (.fail .busTimeout)
        ∧ ∃ t, take .disp failing = .next t) := ⟨⟨rfl, rfl, rfl, ⟨_, rfl⟩⟩, rfl, rfl, ⟨_, rfl⟩⟩

/-- START on a word-select line that never changes, the schedule giving FG every step. -/
def timingOut : Nat → State
  | 0 => starting
  | 1 => { starting with fgProc := some (.start false 2) }
  | 2 => { starting with fgProc := some (.start false 1) }
  | _ => raiseError .busTimeout (doDisable starting)

/-- That run is weakly fair: from its third step on no agent has a step. -/
theorem witness_FairRunsComplete :
    IsRun (fun _ => .fg) timingOut ∧ WeaklyFair (fun _ => .fg) timingOut ∧ Inv (timingOut 0)
      ∧ (timingOut 0).fgBusy = true := by
  refine ⟨fun n => ?_, fun a n h => ?_, inv_starting, rfl⟩
  · match n with
    | 0 => rfl
    | 1 => rfl
    | 2 => rfl
    | n + 3 => rfl
  · have hn := h (n + 3) (by omega)
    cases a <;> cases hn

end Sys2Proof.Tests
end

/-! PROOFS. The state after reset meets the invariant (R8, R240, R241). -/

namespace Sys2Proof.Machine

/-! ### Reset -/

theorem smallest_valid : Params.smallest.Valid := by decide

/-- The implementation's parameters are within R8, whatever the uninterpreted constant is (entry 4). -/
theorem configParams_valid : Config.params.Valid := by
  unfold Config.params
  split
  case isTrue h => exact h
  case isFalse => exact smallest_valid

section
variable (p : Params)

theorem reset_foregroundInv : ForegroundInv (State.resetWith p) where
  busy_iff := rfl
  busy_alone h := nomatch h
  busy_masked h := nomatch h
  setup_ok _ _ h := nomatch h
  start_ok _ _ h := nomatch h

theorem reset_dispatcherInv : DispatcherInv (State.resetWith p) where
  proc_iff := by simp [State.resetWith]
  recovering_iff := by simp [State.resetWith]
  setup_ok _ _ h := nomatch h
  armed_part _ h := nomatch h
  later_part _ h := nomatch h
  wait_armed _ _ h := nomatch h
  active_init h := absurd rfl h
  callback_state h := nomatch h

theorem reset_runStateInv : RunStateInv (State.resetWith p) where
  uninitialized_iff _ := by simp [State.resetWith]
  pending_running h := nomatch h
  valid_config h := nomatch h
  running_enables h := nomatch h
  lines_need h := by simp [State.resetWith] at h

theorem reset_streamInv : StreamInv (State.resetWith p) where
  one_switch := ⟨rfl, rfl, rfl⟩
  armed_when h := nomatch h
  ext_armed h := nomatch h
  armed_valid h := nomatch h
  rx_residue h := nomatch h
  tx_residue h := nomatch h
  sample_le := Nat.le_refl _
  fe_gated h := nomatch h
  rx_flags_armed h := absurd rfl h
  tx_flags_armed h := absurd rfl h

theorem reset_engineInv : EngineInv (State.resetWith p) where
  idle_clear _ := ⟨rfl, rfl⟩
  txn_ok _ h := nomatch h

theorem reset_memoryInv : MemoryInv (State.resetWith p) where
  canonical := reset_mem_wf p
  inside _ h := nomatch h
  written h := nomatch h

theorem reset_inv (hp : p.Valid) : Inv (State.resetWith p) where
  params_valid := hp
  foreground := reset_foregroundInv p
  dispatcher := reset_dispatcherInv p
  runState := reset_runStateInv p
  stream := reset_streamInv p
  engine := reset_engineInv p
  memory := reset_memoryInv p

end

/-- Settles O35: each part of the invariant at reset, and the implementation's parameters are valid. -/
theorem resetMeetsInvariant : Obligations.ResetMeetsInvariant :=
  ⟨reset_inv, reset_inv Config.params configParams_valid⟩

end Sys2Proof.Machine

/-! PROOFS. Every step of a multi-step procedure ends it or leaves less work (R13, R125, R190): a measure for each layer
of a procedure, from one phase of the control bus up to the host operations and the recovery sequence. -/

namespace Sys2Proof.Machine

/-! ### What every procedure step leaves alone -/

/-- What the measure and the end of a procedure rest on, and no procedure step changes. -/
structure KeepsBase (s t : State) : Prop where
  params : t.params = s.params
  dispPhase : t.dispPhase = s.dispPhase

theorem KeepsBase.refl (s : State) : KeepsBase s s := ⟨rfl, rfl⟩

theorem KeepsBase.trans {s t u : State} (h : KeepsBase s t) (h' : KeepsBase t u) : KeepsBase s u :=
  ⟨h'.params.trans h.params, h'.dispPhase.trans h.dispPhase⟩

/-- A step answered from state `s`, with `w` work left before it, keeps the base and goes on only with less work. -/
def ProcResult.Shrinks {π : Type} (work : Params → π → Nat) (w : Nat) (s : State) : ProcResult π → Prop
  | .going pos t => KeepsBase s t ∧ work s.params pos < w
  | .done t => KeepsBase s t
  | .failed _ t => KeepsBase s t

/-- The same of a step of the control-bus engine. -/
def EngineResult.Shrinks (w : Nat) (s : State) : EngineResult → Prop
  | .going r t => KeepsBase s t ∧ txnWork s.params r < w
  | .done _ t => KeepsBase s t
  | .timedOut t => KeepsBase s t

/-! ### The control-bus engine -/

theorem stagesLeft_nextStage {t : Txn} {g g' : TxnStage} (h : nextStage t g = some g') :
    stagesLeft t g = stagesLeft t g' + 1 := by
  cases t <;> cases g <;> cases h <;> rfl

theorem stagesLeft_pos (t : Txn) (g : TxnStage) : 0 < stagesLeft t g := by
  cases t <;> cases g <;> exact Nat.succ_pos _

theorem phaseWork_poll_pos (p : Params) (left : Nat) : 0 < phaseWork p (.poll left) := by
  simp only [phaseWork]
  omega

theorem txnWork_pos (p : Params) (r : TxnRun) : 0 < txnWork p r := by
  have : 0 < phaseWork p r.pos := by
    cases r.pos with
    | request => exact Nat.succ_pos _
    | poll left => exact phaseWork_poll_pos p left
  simp only [txnWork]
  omega

/-- Entering a phase costs the whole phase, which is what the finished phase had beyond its present position. -/
theorem txnWork_nextStage (p : Params) {r : TxnRun} {g : TxnStage} {left : Nat} (b : Byte)
    (hpos : r.pos = .poll left) (hg : nextStage r.txn r.stage = some g) :
    txnWork p { r with stage := g, pos := .request, byte := b } < txnWork p r := by
  obtain ⟨n, hn⟩ : ∃ n, stagesLeft r.txn g = n + 1 := Nat.exists_eq_add_one.2 (stagesLeft_pos r.txn g)
  have hleft := phaseWork_poll_pos p left
  have hrequest : phaseWork p .request = phaseSteps p := rfl
  simp only [txnWork, stagesLeft_nextStage hg, hn, hpos, Nat.add_sub_cancel, Nat.succ_mul, hrequest]
  omega

theorem engineStep_shrinks (r : TxnRun) (s : State) : (engineStep r s).Shrinks (txnWork s.params r) s := by
  rcases engineStep_cases r s with ⟨hpos, e⟩ | ⟨left, hpos, -, hl, e⟩ | ⟨left, hpos, -, -, e⟩
      | ⟨left, g, hpos, -, hg, e⟩ | ⟨left, hpos, -, -, e⟩ <;> rw [e]
  · refine ⟨⟨rfl, rfl⟩, ?_⟩
    simp only [txnWork, hpos, phaseWork, phaseSteps]
    omega
  · refine ⟨.refl s, ?_⟩
    simp only [txnWork, hpos, phaseWork]
    omega
  · exact ⟨rfl, rfl⟩
  · exact ⟨⟨rfl, rfl⟩, txnWork_nextStage s.params _ hpos hg⟩
  · exact ⟨rfl, rfl⟩

/-! ### Codec sequences -/

/-- A codec sequence about to begin has exactly the work of its writes. -/
theorem codecWork_beginCodec {p q : Params} {seq : List (Byte × Byte)} {c : CodecRun}
    (h : beginCodec q seq = some c) : codecWork p c = writesWork p seq.length := by
  cases seq with
  | nil => cases h
  | cons e rest =>
    cases h
    simp only [codecWork, txnWork, beginTxn, stagesLeft, phaseWork, writesWork, List.length_cons, Nat.succ_mul]
    omega

theorem codecWork_pos (p : Params) (c : CodecRun) : 0 < codecWork p c :=
  Nat.add_pos_left (txnWork_pos p c.run) _

theorem codecStep_shrinks (c : CodecRun) (s : State) :
    (codecStep c s).Shrinks codecWork (codecWork s.params c) s := by
  have hengine := engineStep_shrinks c.run s
  rcases codecStep_cases c s with ⟨r, t, he, e⟩ | ⟨t, he, e⟩ | ⟨b, t, c', he, hc, e⟩ | ⟨b, t, he, -, e⟩ <;>
    rw [he] at hengine <;> rw [e]
  · obtain ⟨hkeep, hlt⟩ := hengine
    exact ⟨hkeep, Nat.add_lt_add_right hlt _⟩
  · exact hengine
  · refine ⟨hengine, ?_⟩
    rw [codecWork_beginCodec hc]
    exact Nat.lt_add_of_pos_left (txnWork_pos s.params c.run)
  · exact hengine

/-! ### `do_setup` and `do_start` -/

theorem setupWork_pos (p : Params) (pos : SetupPos) : 0 < setupWork p pos := by
  cases pos <;> simp [setupWork]

theorem setupWork_afterClockOn (p : Params) : setupWork p (afterClockOn p) < setupWork p .clockOn := by
  unfold afterClockOn
  cases h : beginCodec p p.cstartSeq with
  | none => simp only [setupWork]; omega
  | some c => simp only [setupWork, codecWork_beginCodec h]; omega

theorem setupStep_shrinks (rate : BitVec 24) (pos : SetupPos) (s : State) :
    (setupStep rate pos s).Shrinks setupWork (setupWork s.params pos) s := by
  rcases setupStep_cases rate pos s with ⟨left, rfl, -, e⟩ | ⟨left, rfl, -, hl, e⟩ | ⟨left, rfl, -, -, e⟩ | ⟨rfl, e⟩
      | ⟨c, c', t, rfl, hc, e⟩ | ⟨c, t, rfl, hc, e⟩ | ⟨c, err, t, rfl, hc, e⟩ | ⟨rfl, -, e⟩ | ⟨rfl, -, e⟩
      | ⟨rfl, e⟩ | ⟨rfl, e⟩ <;> rw [e]
  · refine ⟨.refl s, ?_⟩
    simp only [setupWork]
    omega
  · refine ⟨.refl s, ?_⟩
    simp only [setupWork]
    omega
  · exact ⟨rfl, rfl⟩
  · exact ⟨⟨rfl, rfl⟩, setupWork_afterClockOn s.params⟩
  · have hcodec := codecStep_shrinks c s
    rw [hc] at hcodec
    obtain ⟨hkeep, hlt⟩ := hcodec
    exact ⟨hkeep, Nat.add_lt_add_right hlt 3⟩
  · have hcodec := codecStep_shrinks c s
    rw [hc] at hcodec
    exact ⟨hcodec, Nat.lt_add_of_pos_left (codecWork_pos s.params c)⟩
  · have hcodec := codecStep_shrinks c s
    rw [hc] at hcodec
    exact KeepsBase.trans hcodec ⟨rfl, rfl⟩
  · exact ⟨⟨rfl, rfl⟩, by simp [setupWork]⟩
  · exact ⟨⟨rfl, rfl⟩, by simp [setupWork]⟩
  · exact ⟨⟨rfl, rfl⟩, by simp [setupWork]⟩
  · exact ⟨rfl, rfl⟩

theorem setupBegin_shrinks (rate : BitVec 24) (s : State) {w : Nat}
    (hw : setupWork s.params (.pll s.params.pllSpinLimit) < w) : (setupBegin rate s).Shrinks setupWork w s := by
  rcases setupBegin_cases rate s with ⟨-, e⟩ | ⟨-, -, e⟩ | ⟨r, -, -, e⟩ <;> rw [e]
  · exact KeepsBase.refl s
  · exact KeepsBase.refl s
  · exact ⟨⟨rfl, rfl⟩, hw⟩

/-- A bound on the poll steps the word-select wait still takes. -/
def waitWork (_ : Params) (pos : Bool × Nat) : Nat := max pos.2 1

theorem startStep_shrinks (ws0 : Bool) (left : Nat) (s : State) :
    (startStep ws0 left s).Shrinks waitWork (max left 1) s := by
  rcases startStep_cases ws0 left s with ⟨-, e⟩ | ⟨-, -, e⟩ | ⟨-, hl, e⟩ <;> rw [e]
  · exact ⟨rfl, rfl⟩
  · exact ⟨rfl, rfl⟩
  · refine ⟨.refl s, ?_⟩
    simp only [waitWork]
    omega

theorem startBegin_shrinks (s : State) {w : Nat} (hw : max s.params.spinLimit 1 < w) :
    (startBegin s).Shrinks waitWork w s := by
  rcases startBegin_cases s with ⟨-, e⟩ | ⟨-, e⟩ <;> rw [e]
  · exact ⟨⟨rfl, rfl⟩, hw⟩
  · exact KeepsBase.refl s

/-! ### Host operations -/

/-- FG's operation has ended, or it goes on with less than `w` work. -/
def FgProgress (w : Nat) (t : State) : Prop :=
  (t.fgBusy = false ∧ t.fgProc = none)
    ∨ (t.fgBusy = true ∧ ∃ k', t.fgProc = some k' ∧ fgWork t.params k' < w)

theorem succeed_progress (w : Nat) (d : Word32) (s : State) : FgProgress w (succeed d s) := .inl ⟨rfl, rfl⟩

theorem raiseError_progress (w : Nat) (e : ErrCode) (s : State) : FgProgress w (raiseError e s) := .inl ⟨rfl, rfl⟩

theorem continueFg_progress {w : Nat} {k : FgProc} {s : State} (h : fgWork s.params k < w) :
    FgProgress w (continueFg k s) := .inr ⟨rfl, k, rfl, h⟩

theorem settleSetup_progress {w : Nat} {s : State} (rate : BitVec 24) {r : ProcResult SetupPos}
    (h : r.Shrinks setupWork w s) : FgProgress w (settleSetup rate r) := by
  cases r with
  | going pos t => exact continueFg_progress (h.1.params ▸ h.2)
  | done t => exact succeed_progress w 0 t
  | failed e t => exact raiseError_progress w e t

theorem settleStart_progress {w : Nat} {s : State} {r : ProcResult (Bool × Nat)} (h : r.Shrinks waitWork w s) :
    FgProgress w (settleStart r) := by
  cases r with
  | going pos t => exact continueFg_progress h.2
  | done t => exact succeed_progress w 0 t
  | failed e t => exact raiseError_progress w e t

theorem settleTxn_progress {w : Nat} {s : State} (t : Txn) {r : EngineResult} (h : r.Shrinks w s) :
    FgProgress w (settleTxn t r) := by
  cases r with
  | going r u => exact continueFg_progress (h.1.params ▸ h.2)
  | done b u => exact succeed_progress w _ u
  | timedOut u => exact raiseError_progress w _ u

theorem fgStepAt_progress (k : FgProc) (s : State) : FgProgress (fgWork s.params k) (fgStepAt k s) := by
  cases k with
  | setup rate pos => exact settleSetup_progress rate (setupStep_shrinks rate pos s)
  | start ws0 left => exact settleStart_progress (startStep_shrinks ws0 left s)
  | transaction r => exact settleTxn_progress r.txn (engineStep_shrinks r s)

/-- What FG's move does in an operation in progress (R229 (a)). -/
theorem take_fg {s : State} {k : FgProc} (hbusy : s.fgBusy = true) (hk : s.fgProc = some k)
    (hmay : fgMayStep s = true) : take .fg s = .next (fgStepAt k s) := by
  simp [take, enabled, act, fgStep, hbusy, hk, hmay]

/-! ### The recovery sequence -/

/-- DISP has left the recovery sequence, or it goes on with less than `w` work. -/
def RecoveryProgress (w : Nat) (t : State) : Prop :=
  (t.dispPhase ≠ .recover ∧ t.dispProc = none)
    ∨ (t.dispPhase = .recover ∧ ∃ k', t.dispProc = some k' ∧ recoveryWork t.params k' < w)

theorem continueRecovery_progress {w : Nat} {k : RecoveryProc} {s t : State} (hs : s.dispPhase = .recover)
    (hkeep : KeepsBase s t) (h : recoveryWork s.params k < w) : RecoveryProgress w (continueRecovery k t) :=
  .inr ⟨hkeep.dispPhase.trans hs, k, rfl, by rw [continueRecovery_params, hkeep.params]; exact h⟩

theorem recoverySucceed_progress (w : Nat) (s : State) : RecoveryProgress w (recoverySucceed s) := by
  unfold recoverySucceed
  dsimp only
  split
  · exact .inl ⟨nofun, rfl⟩
  · exact .inl ⟨nofun, rfl⟩

theorem recoveryFail_progress (w : Nat) (e : ErrCode) (s : State) : RecoveryProgress w (recoveryFail e s) :=
  .inl ⟨nofun, rfl⟩

section
variable {w : Nat} {s : State} (hs : s.dispPhase = .recover)
include hs

theorem settleCorrect_progress (hw : 0 < w) {r : ProcResult CodecRun} (h : r.Shrinks codecWork w s) :
    RecoveryProgress (w + (resetupWork s.params + 1)) (settleCorrect r) := by
  cases r with
  | going c t => exact continueRecovery_progress hs h.1 (Nat.add_lt_add_right h.2 _)
  | done t => exact continueRecovery_progress hs h (Nat.lt_add_of_pos_left hw)
  | failed e t =>
    refine continueRecovery_progress hs h ?_
    simp only [recoveryWork]
    omega

theorem settleRecoverySetup_progress (rate : BitVec 24) (hw : 0 < w) {r : ProcResult SetupPos}
    (h : r.Shrinks setupWork w s) :
    RecoveryProgress (w + restartWork s.params) (settleRecoverySetup rate r) := by
  cases r with
  | going pos t => exact continueRecovery_progress hs h.1 (Nat.add_lt_add_right h.2 _)
  | done t => exact continueRecovery_progress hs h (Nat.lt_add_of_pos_left hw)
  | failed e t =>
    refine continueRecovery_progress hs h ?_
    simp only [recoveryWork, restartWork]
    omega

theorem settleRecoveryStart_progress (hw : 0 < w) {r : ProcResult (Bool × Nat)} (h : r.Shrinks waitWork w s) :
    RecoveryProgress (w + 1) (settleRecoveryStart r) := by
  cases r with
  | going pos t => exact continueRecovery_progress hs h.1 (Nat.add_lt_add_right h.2 1)
  | done t => exact recoverySucceed_progress (w + 1) t
  | failed e t => exact continueRecovery_progress hs h (Nat.lt_add_of_pos_left hw)

end

theorem recoveryStepAt_progress (k : RecoveryProc) {s : State} (hs : s.dispPhase = .recover) :
    RecoveryProgress (recoveryWork s.params k) (recoveryStepAt k s) := by
  cases k with
  | correct c => exact settleCorrect_progress hs (codecWork_pos s.params c) (codecStep_shrinks c s)
  | teardown => exact continueRecovery_progress hs ⟨rfl, rfl⟩ (Nat.lt_succ_self _)
  | setupBegin =>
    have hbegin := setupBegin_shrinks s.cfgRate s (Nat.lt_add_one _)
    have h := settleRecoverySetup_progress hs s.cfgRate (Nat.add_one_pos _) hbegin
    rw [Nat.add_right_comm] at h
    exact h
  | setup rate pos =>
    exact settleRecoverySetup_progress hs rate (setupWork_pos s.params pos) (setupStep_shrinks rate pos s)
  | startBegin => exact settleRecoveryStart_progress hs (Nat.succ_pos _) (startBegin_shrinks s (Nat.lt_succ_self _))
  | startWait ws0 left =>
    exact settleRecoveryStart_progress hs (lt_max_of_lt_right Nat.one_pos) (startStep_shrinks ws0 left s)
  | fail e => exact recoveryFail_progress _ e s

/-- What DISP's move does inside the recovery sequence (R190). -/
theorem take_disp {s : State} {k : RecoveryProc} (hs : s.dispPhase = .recover) (hk : s.dispProc = some k) :
    take .disp s = .next (recoveryStepAt k s) := by
  simp [take, enabled, act, recoveryStep, hs, hk]

/-- Settles O59: `fgWork` and `recoveryWork` are the measures. -/
theorem everyProcedureStepShrinksItsWork : Obligations.EveryProcedureStepShrinksItsWork := by
  intro s t
  constructor
  · intro k hbusy hk hmay ht
    rw [take_fg hbusy hk hmay] at ht
    cases ht
    exact fgStepAt_progress k s
  · intro k hs hk ht
    rw [take_disp hs hk] at ht
    cases ht
    exact recoveryStepAt_progress k hs

end Sys2Proof.Machine

/-! PROOFS. Sample words are moved and never interpreted (R6, R151): every operation of the model commutes with
forgetting them, so a step after the erasure is the erasure of the step. -/

namespace Sys2Proof.Machine

/-! ### Forgetting -/

theorem forgetMove_forgetMove (m : Move) : forgetMove (forgetMove m) = forgetMove m := by
  cases m <;> rfl

@[simp] theorem forgetSamples_forgetSamples (s : State) : s.forgetSamples.forgetSamples = s.forgetSamples := by
  simp [State.forgetSamples, Function.comp_def, forgetMove_forgetMove]

@[simp] theorem forgetOutcome_forgetOutcome (o : Outcome) : forgetOutcome (forgetOutcome o) = forgetOutcome o := by
  cases o with
  | next s => exact congrArg Host.Outcome.next (forgetSamples_forgetSamples s)
  | fault f => rfl
  | refused r => rfl

/-! The fields that a procedure or an agent branches on hold no sample word. -/

@[simp] theorem forgetSamples_params (s : State) : s.forgetSamples.params = s.params := rfl
@[simp] theorem forgetSamples_fgProc (s : State) : s.forgetSamples.fgProc = s.fgProc := rfl
@[simp] theorem forgetSamples_dispProc (s : State) : s.forgetSamples.dispProc = s.dispProc := rfl
@[simp] theorem forgetSamples_wsLine (s : State) : s.forgetSamples.wsLine = s.wsLine := rfl
@[simp] theorem forgetSamples_pllLocked (s : State) : s.forgetSamples.pllLocked = s.pllLocked := rfl
@[simp] theorem forgetSamples_cbWait (s : State) : s.forgetSamples.cbWait = s.cbWait := rfl
@[simp] theorem forgetSamples_cbSr (s : State) : s.forgetSamples.cbSr = s.cbSr := rfl

/-- `f` neither reads a sample word nor stores one. -/
def Oblivious (f : State → State) : Prop := ∀ s, f s.forgetSamples = (f s).forgetSamples

theorem Oblivious.of_forget {f : State → State} (h : ∀ s, (f s).forgetSamples = f s.forgetSamples) : Oblivious f :=
  fun s => (h s).symm

theorem Oblivious.comp {f g : State → State} (hg : Oblivious g) (hf : Oblivious f) : Oblivious (g ∘ f) :=
  fun s => (congrArg g (hf s)).trans (hg (f s))

/-! ### Memory -/

/-- Which bytes are written, without what they hold. -/
def Memory.forget (m : Memory) : Memory := m.map (fun c => (c.1, 0))

@[simp] theorem forgetSamples_mem (s : State) : s.forgetSamples.mem = s.mem.forget := rfl

theorem Memory.forget_writeByte (m : Memory) (a : Nat) (v : Byte) :
    (m.writeByte a v).forget = m.forget.writeByte a 0 := by
  induction m with
  | nil => rfl
  | cons c m ih =>
    simp only [Memory.forget, Memory.writeByte, List.map_cons] at ih ⊢
    split_ifs
    · rfl
    · rfl
    · rw [List.map_cons, ih]

theorem Memory.forget_writeItem (m : Memory) (a : Nat) (v : Item) :
    (m.writeItem a v).forget = m.forget.writeItem a 0 := by
  simp only [Memory.writeItem, Memory.forget_writeByte]
  rfl

theorem Memory.forget_zeroItems (base n : Nat) (m : Memory) :
    (zeroItems base n m).forget = zeroItems base n m.forget := by
  induction n with
  | zero => rfl
  | succ n ih => simp only [zeroItems, Memory.forget_writeItem, ih]

theorem Memory.byteAt_forget (m : Memory) (a : Nat) : m.forget.byteAt a = (m.byteAt a).map (fun _ => 0) := by
  induction m with
  | nil => rfl
  | cons c m ih =>
    simp only [Memory.forget, List.map_cons, Memory.byteAt_cons] at ih ⊢
    split_ifs
    · rfl
    · exact ih

theorem Memory.itemAt_forget (m : Memory) (a : Nat) : m.forget.itemAt a = (m.itemAt a).map (fun _ => 0) := by
  simp only [Memory.itemAt, Memory.byteAt_forget]
  cases m.byteAt a with
  | none => rfl
  | some lo =>
    cases m.byteAt (a + 1) with
    | none => rfl
    | some hi => exact congrArg some (by decide : (0#8 ++ 0#8 : Item) = 0)

/-- Whether a read faults, and how, does not depend on the words. -/
theorem memRead_forgetSamples (s : State) (a : Nat) :
    memRead s.forgetSamples a = (memRead s a).map (fun _ => 0) := by
  simp only [memRead, forgetSamples_params, forgetSamples_mem, Memory.itemAt_forget]
  cases isItemAddr s.params a
  · rfl
  · cases s.mem.itemAt a <;> rfl

theorem memWrite_forgetSamples (s : State) (a : Nat) (v : Item) :
    memWrite s.forgetSamples a 0 = (memWrite s a v).map State.forgetSamples := by
  simp only [memWrite, forgetSamples_params, forgetSamples_mem, ← Memory.forget_writeItem s.mem a v]
  cases isItemAddr s.params a <;> rfl

theorem zeroBuffers_oblivious : Oblivious zeroBuffers := by
  intro s
  simp only [zeroBuffers, forgetSamples_params, forgetSamples_mem, ← Memory.forget_zeroItems]
  rfl

/-! ### Procedures -/

/-- A procedure's answer without the sample words of its state. -/
def ProcResult.forget {π : Type} : ProcResult π → ProcResult π
  | .going pos s => .going pos s.forgetSamples
  | .done s => .done s.forgetSamples
  | .failed e s => .failed e s.forgetSamples

/-- The engine's answer without the sample words of its state. -/
def EngineResult.forget : EngineResult → EngineResult
  | .going r s => .going r s.forgetSamples
  | .done b s => .done b s.forgetSamples
  | .timedOut s => .timedOut s.forgetSamples

theorem engineStep_forgetSamples (r : TxnRun) (s : State) :
    engineStep r s.forgetSamples = (engineStep r s).forget := by
  unfold engineStep
  cases r.pos with
  | request => rfl
  | poll left =>
    simp only [forgetSamples_cbSr]
    cases pollStep (cbFlag s.cbSr (stagePhase r.stage)) left with
    | again k => rfl
    | timeout => rfl
    | ok => cases nextStage r.txn r.stage <;> rfl

theorem codecStep_forgetSamples (c : CodecRun) (s : State) :
    codecStep c s.forgetSamples = (codecStep c s).forget := by
  simp only [codecStep, engineStep_forgetSamples]
  cases engineStep c.run s with
  | going r t => rfl
  | timedOut t => rfl
  | done b t =>
    simp only [EngineResult.forget, forgetSamples_params]
    cases beginCodec t.params c.rest <;> rfl

theorem setupBegin_forgetSamples (rate : BitVec 24) (s : State) :
    setupBegin rate s.forgetSamples = (setupBegin rate s).forget := by
  unfold setupBegin
  cases rateOf rate with
  | none => rfl
  | some r =>
    symm
    exact apply_ite ProcResult.forget _ _ _

theorem setupStep_forgetSamples (rate : BitVec 24) (pos : SetupPos) (s : State) :
    setupStep rate pos s.forgetSamples = (setupStep rate pos s).forget := by
  cases pos with
  | pll left =>
    simp only [setupStep, forgetSamples_pllLocked]
    cases pollStep s.pllLocked left <;> rfl
  | clockOn => rfl
  | codec c =>
    simp only [setupStep, codecStep_forgetSamples]
    cases codecStep c s <;> rfl
  | dmaConfigure => rfl
  | zeroBuffers => exact congrArg (ProcResult.going SetupPos.finish) (zeroBuffers_oblivious s)
  | finish => rfl

theorem startBegin_forgetSamples (s : State) : startBegin s.forgetSamples = (startBegin s).forget := by
  symm
  exact apply_ite ProcResult.forget _ _ _

theorem startStep_forgetSamples (ws0 : Bool) (left : Nat) (s : State) :
    startStep ws0 left s.forgetSamples = (startStep ws0 left s).forget := by
  simp only [startStep, forgetSamples_wsLine]
  cases pollStep (s.wsLine != ws0) left <;> rfl

theorem settleSetup_forget (rate : BitVec 24) (r : ProcResult SetupPos) :
    settleSetup rate r.forget = (settleSetup rate r).forgetSamples := by
  cases r <;> rfl

theorem settleStart_forget (r : ProcResult (Bool × Nat)) :
    settleStart r.forget = (settleStart r).forgetSamples := by
  cases r <;> rfl

theorem settleTxn_forget (t : Txn) (r : EngineResult) : settleTxn t r.forget = (settleTxn t r).forgetSamples := by
  cases r <;> rfl

theorem recoverySucceed_oblivious : Oblivious recoverySucceed := .of_forget fun _ => apply_ite State.forgetSamples _ _ _

theorem settleCorrect_forget (r : ProcResult CodecRun) :
    settleCorrect r.forget = (settleCorrect r).forgetSamples := by
  cases r <;> rfl

theorem settleRecoverySetup_forget (rate : BitVec 24) (r : ProcResult SetupPos) :
    settleRecoverySetup rate r.forget = (settleRecoverySetup rate r).forgetSamples := by
  cases r <;> rfl

theorem settleRecoveryStart_forget (r : ProcResult (Bool × Nat)) :
    settleRecoveryStart r.forget = (settleRecoveryStart r).forgetSamples := by
  cases r with
  | going pos s => rfl
  | done s => exact recoverySucceed_oblivious s
  | failed e s => rfl

/-! ### The agents -/

theorem fgStepAt_oblivious (k : FgProc) : Oblivious (fgStepAt k) := by
  intro s
  cases k with
  | setup rate pos => simp only [fgStepAt, setupStep_forgetSamples, settleSetup_forget]
  | start ws0 left => simp only [fgStepAt, startStep_forgetSamples, settleStart_forget]
  | transaction r => simp only [fgStepAt, engineStep_forgetSamples, settleTxn_forget]

theorem fgStep_oblivious : Oblivious fgStep := by
  intro s
  simp only [fgStep, forgetSamples_fgProc]
  cases s.fgProc with
  | none => rfl
  | some k => exact fgStepAt_oblivious k s

theorem recoveryStepAt_oblivious (k : RecoveryProc) : Oblivious (recoveryStepAt k) := by
  intro s
  cases k with
  | correct c => simp only [recoveryStepAt, codecStep_forgetSamples, settleCorrect_forget]
  | teardown => rfl
  | setupBegin =>
    simp only [recoveryStepAt, setupBegin_forgetSamples, settleRecoverySetup_forget]
    rfl
  | setup rate pos => simp only [recoveryStepAt, setupStep_forgetSamples, settleRecoverySetup_forget]
  | startBegin => simp only [recoveryStepAt, startBegin_forgetSamples, settleRecoveryStart_forget]
  | startWait ws0 left => simp only [recoveryStepAt, startStep_forgetSamples, settleRecoveryStart_forget]
  | fail e => rfl

theorem recoveryStep_oblivious : Oblivious recoveryStep := by
  intro s
  simp only [recoveryStep, forgetSamples_dispProc]
  cases s.dispProc with
  | none => rfl
  | some k => exact recoveryStepAt_oblivious k s

theorem takeRxTe_oblivious : Oblivious takeRxTe := .of_forget fun _ => apply_ite State.forgetSamples _ _ _
theorem takeRxDme_oblivious : Oblivious takeRxDme := .of_forget fun _ => apply_ite State.forgetSamples _ _ _
theorem takeRxTc_oblivious : Oblivious takeRxTc := .of_forget fun _ => apply_ite State.forgetSamples _ _ _
theorem takeRxHt_oblivious : Oblivious takeRxHt := .of_forget fun _ => apply_ite State.forgetSamples _ _ _
theorem takeTxTe_oblivious : Oblivious takeTxTe := .of_forget fun _ => apply_ite State.forgetSamples _ _ _
theorem takeTxDme_oblivious : Oblivious takeTxDme := .of_forget fun _ => apply_ite State.forgetSamples _ _ _

theorem txh_oblivious : Oblivious txh := takeTxDme_oblivious.comp takeTxTe_oblivious

theorem dispHandoff_oblivious : Oblivious dispHandoff := by
  intro s
  have hcauses := (takeRxHt_oblivious.comp (takeRxTc_oblivious.comp
    (takeRxDme_oblivious.comp takeRxTe_oblivious))) { s with dispBlock := false }
  exact congrArg (fun t : State => { t with dispHalf := t.readyHalf }) hcauses

theorem dispEntry_oblivious : Oblivious dispEntry := by
  intro s
  simp only [dispEntry, dispHandoff_oblivious s, apply_ite State.forgetSamples]
  rfl

/-- The underrun test of DISP's exit step (R172). -/
def noteUnderrun (s : State) : State :=
  if deltaBytes s > s.params.dbufBytesRx then
    { s with underrunFlag := true, underrunCount := satInc s.underrunCount }
  else s

/-- What is left of DISP's exit step: the sample of `rx_progress`, and the return (R172). -/
def sampleProgress (s : State) : State := handlerReturn { s with lastProgress := s.rxProgress }

theorem dispExit_eq : dispExit = sampleProgress ∘ noteUnderrun := rfl

theorem noteUnderrun_oblivious : Oblivious noteUnderrun := .of_forget fun _ => apply_ite State.forgetSamples _ _ _

theorem sampleProgress_oblivious : Oblivious sampleProgress := fun _ => rfl

theorem dispExit_oblivious : Oblivious dispExit :=
  dispExit_eq ▸ sampleProgress_oblivious.comp noteUnderrun_oblivious

theorem cbAck_oblivious (b : Byte) : Oblivious (cbAck b) := by
  intro s
  simp only [cbAck, forgetSamples_cbWait]
  cases s.cbWait <;> rfl

theorem dmaError_oblivious (ch : Channel) (kind : DmaErrorKind) : Oblivious (dmaError ch kind) := by
  intro s
  cases ch <;> cases kind <;> rfl

theorem beginRegisterOp_oblivious (t : Txn) : Oblivious (beginRegisterOp t) :=
  .of_forget fun _ => apply_ite State.forgetSamples _ _ _

theorem exec_forgetSamples (i : Instr) (s : State) : exec i s.forgetSamples = forgetOutcome (exec i s) := by
  cases i with
  | setup rate =>
    simp only [exec, execSetup, setupBegin_forgetSamples, settleSetup_forget]
    rfl
  | start =>
    simp only [exec, execStart, startBegin_forgetSamples, settleStart_forget]
    rfl
  | disable => rfl
  | writeRegister dev reg val => exact congrArg Host.Outcome.next (beginRegisterOp_oblivious _ s)
  | readRegister dev reg => exact congrArg Host.Outcome.next (beginRegisterOp_oblivious _ s)
  | getProperty sel =>
    symm
    exact congrArg Host.Outcome.next (apply_ite State.forgetSamples _ _ _)
  | getStatus sel => rfl
  | clearUnderrun => rfl

theorem accept_forgetSamples (w : Word32) (s : State) :
    accept w s.forgetSamples = forgetOutcome (accept w s) := by
  unfold accept
  cases decode w with
  | ok i => exact exec_forgetSamples i { s with cmd := w }
  | error e => rfl

theorem forgetSamples_rxTrace_append (w : Item) (s : State) :
    { s.forgetSamples with rxTrace := s.forgetSamples.rxTrace ++ [0] }
      = State.forgetSamples { s with rxTrace := s.rxTrace ++ [w] } := by
  simp [State.forgetSamples]

theorem forgetSamples_txTrace_append (w : Item) (s : State) :
    { s.forgetSamples with txTrace := s.forgetSamples.txTrace ++ [0] }
      = State.forgetSamples { s with txTrace := s.txTrace ++ [w] } := by
  simp [State.forgetSamples]

theorem dmaRxItem_forgetSamples (w : Item) (s : State) :
    dmaRxItem 0 s.forgetSamples = forgetOutcome (dmaRxItem w s) := by
  have haddr : rxItemAddr s.forgetSamples.params s.forgetSamples.rxIdx = rxItemAddr s.params s.rxIdx := rfl
  simp only [dmaRxItem, haddr, memWrite_forgetSamples s _ w]
  cases memWrite s (rxItemAddr s.params s.rxIdx) w with
  | error f => rfl
  | ok t => exact congrArg (fun u => Host.Outcome.next (rxAdvance u)) (forgetSamples_rxTrace_append w t)

theorem dmaTxItem_forgetSamples (s : State) : dmaTxItem s.forgetSamples = forgetOutcome (dmaTxItem s) := by
  have haddr : txItemAddr s.forgetSamples.params s.forgetSamples.txIdx = txItemAddr s.params s.txIdx := rfl
  simp only [dmaTxItem, haddr, memRead_forgetSamples]
  cases memRead s (txItemAddr s.params s.txIdx) with
  | error f => rfl
  | ok w => exact congrArg (fun u => Host.Outcome.next (txAdvance u)) (forgetSamples_txTrace_append w s)

theorem cbReadStep_forgetSamples (i : Nat) (s : State) :
    cbReadStep i s.forgetSamples = forgetOutcome (cbReadStep i s) := by
  have haddr : cbReadAddr s.forgetSamples i = cbReadAddr s i := rfl
  simp only [cbReadStep, cbReadValue, haddr, memRead_forgetSamples]
  cases memRead s (cbReadAddr s i) <;> rfl

theorem cbWriteStep_forgetSamples (i : Nat) (w : Item) (s : State) :
    cbWriteStep i 0 s.forgetSamples = forgetOutcome (cbWriteStep i w s) := by
  have haddr : cbWriteAddr s.forgetSamples i = cbWriteAddr s i := rfl
  simp only [cbWriteStep, haddr, memWrite_forgetSamples s _ w]
  cases memWrite s (cbWriteAddr s i) w <;> rfl

/-! ### One step -/

theorem enabled_forgetSamples (m : Move) (s : State) :
    enabled (forgetMove m) s.forgetSamples = enabled m s := by
  cases m <;> rfl

theorem act_forgetSamples (m : Move) (s : State) :
    act (forgetMove m) s.forgetSamples = forgetOutcome (act m s) := by
  cases m with
  | command w => exact accept_forgetSamples w s
  | fg => exact congrArg Host.Outcome.next (fgStep_oblivious s)
  | dispEntry => exact congrArg Host.Outcome.next (dispEntry_oblivious s)
  | disp => exact congrArg Host.Outcome.next (recoveryStep_oblivious s)
  | dispExit => exact congrArg Host.Outcome.next (dispExit_oblivious s)
  | cbRead i => exact cbReadStep_forgetSamples i s
  | cbWrite i w => exact cbWriteStep_forgetSamples i w s
  | txh => exact congrArg Host.Outcome.next (txh_oblivious s)
  | feh => rfl
  | dmaRx w => exact dmaRxItem_forgetSamples w s
  | dmaTx => exact dmaTxItem_forgetSamples s
  | pllLock => rfl
  | cbAck b => exact congrArg Host.Outcome.next (cbAck_oblivious b s)
  | wsToggle => rfl
  | frameError => rfl
  | dmaError ch kind => exact congrArg Host.Outcome.next (dmaError_oblivious ch kind s)

theorem take_forgetSamples (m : Move) (s : State) :
    take (forgetMove m) s.forgetSamples = forgetOutcome (take m s) := by
  simp only [take, enabled_forgetSamples, act_forgetSamples]
  cases enabled m s <;> rfl

/-- A move that keeps the words it draws is no different: they are forgotten afterwards. -/
theorem forgetOutcome_take (m : Move) (s : State) :
    forgetOutcome (take m s.forgetSamples) = forgetOutcome (take m s) := by
  rw [← take_forgetSamples, forgetSamples_forgetSamples, take_forgetSamples]

/-- Settles O42, by what the next move comes from: a listed move is erased with the state, the schedule's is not. -/
theorem sampleWordsNeverSteer : Obligations.SampleWordsNeverSteer := by
  intro s
  cases h : s.inputs with
  | nil =>
    have h' : s.forgetSamples.inputs = [] := congrArg (List.map forgetMove) h
    rw [step_eq_of_nil h, step_eq_of_nil h']
    exact (forgetOutcome_take _ { s with tick := s.tick + 1 }).symm
  | cons m ms =>
    have h' : s.forgetSamples.inputs = forgetMove m :: ms.map forgetMove := congrArg (List.map forgetMove) h
    rw [step_eq_of_cons h, step_eq_of_cons h']
    have htake := take_forgetSamples m { s with inputs := ms }
    exact (forgetOutcome_forgetOutcome _).symm.trans (congrArg forgetOutcome htake.symm)

end Sys2Proof.Machine

/-! PROOFS. The invariant is kept by every step. An operation's or a recovery's step is taken apart into what the
procedure does to the registers, and who runs it. -/

namespace Sys2Proof.Machine

/-! ### What the invariant does not read -/

/-- A state without the registers that no part of the invariant reads. -/
def State.invView (s : State) : State :=
  { s with
    cmd := 0, rspErr := .ok, rspData := 0, readyHalf := 0, dispBlock := false, dispHalf := 0
    rxCfg := default, txCfg := default, cbClkOn := false, pllLocked := false, wsLine := false, cfgClk := default
    cbRxByte := 0, underrunFlag := false, underrunCount := 0, teCount := 0, dmeCount := 0, recoveryCount := 0
    recoveryFailCount := 0, callbackCount := 0, lastError := .ok, cbTrace := [], txTrace := [], rxTrace := []
    callTrace := [], inputs := [], tick := 0 }

theorem Inv.invView {s : State} (h : Inv s) : Inv s.invView :=
  ⟨h.params_valid, { h.foreground with }, { h.dispatcher with }, { h.runState with }, { h.stream with },
    { h.engine with }, { h.memory with }⟩

/-- States that differ only in registers the invariant does not read meet it together. -/
theorem Inv.of_view {s t : State} (h : Inv s) (e : t.invView = s.invView) : Inv t :=
  have hv : Inv t.invView := e ▸ h.invView
  ⟨hv.params_valid, { hv.foreground with }, { hv.dispatcher with }, { hv.runState with }, { hv.stream with },
    { hv.engine with }, { hv.memory with }⟩

/-! ### What a procedure leaves alone -/

/-- The six event counters (R43, R44). -/
def State.counts (s : State) : List Word32 :=
  [s.underrunCount, s.teCount, s.dmeCount, s.recoveryCount, s.recoveryFailCount, s.callbackCount]

/-- What a step of a multi-step procedure keeps, whoever runs it: `do_disable` may drop a pending frame error, and
initialised buffers stay so (R41, R137). -/
structure ProcFrame (s t : State) : Prop where
  params : t.params = s.params
  fgBusy : t.fgBusy = s.fgBusy
  fgProc : t.fgProc = s.fgProc
  dispPhase : t.dispPhase = s.dispPhase
  dispProc : t.dispProc = s.dispProc
  recState : s.recState ≠ .frameErrorPending → t.recState = s.recState
  bufsInit : s.bufsInit = true → t.bufsInit = true
  readyHalf : t.readyHalf = s.readyHalf
  counts : t.counts = s.counts

theorem ProcFrame.refl (s : State) : ProcFrame s s := ⟨rfl, rfl, rfl, rfl, rfl, fun _ => rfl, id, rfl, rfl⟩

/-- The state a procedure's answer holds. -/
def ProcResult.state {π : Type} : ProcResult π → State
  | .going _ t => t
  | .done t => t
  | .failed _ t => t

/-- The state the engine's answer holds. -/
def EngineResult.state : EngineResult → State
  | .going _ t => t
  | .done _ t => t
  | .timedOut t => t

/-- The control-bus engine writes its two registers and the bus, and nothing else (R113, R117). -/
def OnlyBus (s t : State) : Prop := ∃ sr x tr, t = { s with cbSr := sr, cbWait := x, cbTrace := tr }

theorem OnlyBus.frame {s t : State} (h : OnlyBus s t) : ProcFrame s t := by
  obtain ⟨sr, x, tr, rfl⟩ := h
  exact ⟨rfl, rfl, rfl, rfl, rfl, fun _ => rfl, id, rfl, rfl⟩

theorem OnlyBus.clocksOn {s t : State} (h : OnlyBus s t) : t.clocksOn = s.clocksOn := by
  obtain ⟨sr, x, tr, rfl⟩ := h
  rfl

theorem OnlyBus.runState {s t : State} (h : OnlyBus s t) : t.runState = s.runState := by
  obtain ⟨sr, x, tr, rfl⟩ := h
  rfl

theorem engineStep_onlyBus (r : TxnRun) (s : State) : OnlyBus s (engineStep r s).state := by
  rcases engineStep_cases r s with ⟨-, e⟩ | ⟨_, -, -, -, e⟩ | ⟨_, -, -, -, e⟩ | ⟨_, _, -, -, -, e⟩
      | ⟨_, -, -, -, e⟩ <;> rw [e] <;> exact ⟨_, _, _, rfl⟩

theorem codecStep_onlyBus (c : CodecRun) (s : State) : OnlyBus s (codecStep c s).state := by
  have hengine := engineStep_onlyBus c.run s
  rcases codecStep_cases c s with ⟨r, t, he, e⟩ | ⟨t, he, e⟩ | ⟨b, t, c', he, -, e⟩ | ⟨b, t, he, -, e⟩ <;>
    rw [he] at hengine <;> rw [e] <;> exact hengine

theorem onlyBus_of_codecStep {c : CodecRun} {s : State} {r : ProcResult CodecRun} (h : codecStep c s = r) :
    OnlyBus s r.state :=
  h ▸ codecStep_onlyBus c s

theorem invalidateConfig_frame {s t : State} (h : ProcFrame s t) : ProcFrame s (invalidateConfig t) := { h with }

theorem doDisable_frame (s : State) : ProcFrame s (doDisable s) :=
  ⟨rfl, rfl, rfl, rfl, rfl, fun h => by simp [h], id, rfl, rfl⟩

theorem setupStep_frame (rate : BitVec 24) (pos : SetupPos) (s : State) :
    ProcFrame s (setupStep rate pos s).state := by
  rcases setupStep_cases rate pos s with ⟨_, -, -, e⟩ | ⟨_, -, -, -, e⟩ | ⟨_, -, -, -, e⟩ | ⟨-, e⟩
      | ⟨c, c', t, -, hc, e⟩ | ⟨c, t, -, hc, e⟩ | ⟨c, err, t, -, hc, e⟩ | ⟨-, -, e⟩ | ⟨-, -, e⟩
      | ⟨-, e⟩ | ⟨-, e⟩ <;> rw [e]
  · exact .refl s
  · exact .refl s
  · exact invalidateConfig_frame (.refl s)
  · exact { ProcFrame.refl s with }
  · exact (onlyBus_of_codecStep hc).frame
  · exact (onlyBus_of_codecStep hc).frame
  · exact invalidateConfig_frame (onlyBus_of_codecStep hc).frame
  · exact { ProcFrame.refl s with }
  · exact { ProcFrame.refl s with }
  · exact { ProcFrame.refl s with bufsInit := fun _ => rfl }
  · exact { ProcFrame.refl s with }

theorem startStep_frame (ws0 : Bool) (left : Nat) (s : State) : ProcFrame s (startStep ws0 left s).state := by
  rcases startStep_cases ws0 left s with ⟨-, e⟩ | ⟨-, -, e⟩ | ⟨-, -, e⟩ <;> rw [e]
  · exact { ProcFrame.refl s with }
  · exact doDisable_frame s
  · exact .refl s

theorem setupBegin_frame (rate : BitVec 24) (s : State) : ProcFrame s (setupBegin rate s).state := by
  rcases setupBegin_cases rate s with ⟨-, e⟩ | ⟨-, -, e⟩ | ⟨r, -, -, e⟩ <;> rw [e]
  · exact .refl s
  · exact .refl s
  · exact { ProcFrame.refl s with }

/-! ### The engine's registers -/

/-- The engine's registers fit the transaction in progress, or the engine is idle (R111, R113). -/
def EngineFits (s : State) : Option TxnRun → Prop
  | none => s.cbWait = none ∧ s.cbSr = 0
  | some r => TxnOk s r

theorem engineInv_iff (s : State) : EngineInv s ↔ EngineFits s s.txn? := by
  constructor
  · intro h
    cases htxn : s.txn? with
    | none => exact h.idle_clear htxn
    | some r => exact h.txn_ok r htxn
  · intro h
    constructor
    · intro htxn
      rwa [htxn] at h
    · intro r htxn
      rwa [htxn] at h

theorem engineFits_beginTxn {s : State} (t : Txn) (h : s.cbWait = none) : EngineFits s (some (beginTxn t)) := h

/-- The engine's registers fit what the engine answers. -/
def EngineResult.Fits : EngineResult → Prop
  | .going r t => EngineFits t (some r)
  | .done _ t => EngineFits t none
  | .timedOut t => EngineFits t none

theorem engineStep_fits {r : TxnRun} {s : State} (h : EngineFits s (some r)) : (engineStep r s).Fits := by
  rcases engineStep_cases r s with ⟨-, e⟩ | ⟨left, hpos, -, -, e⟩ | ⟨_, -, -, -, e⟩ | ⟨_, _, -, -, -, e⟩
      | ⟨_, -, -, -, e⟩ <;> rw [e]
  · exact rfl
  · simp only [EngineFits, TxnOk, hpos] at h
    exact h
  · exact ⟨rfl, rfl⟩
  · exact rfl
  · exact ⟨rfl, rfl⟩

/-- The engine's registers fit what the codec sequence answers. -/
def CodecFits : ProcResult CodecRun → Prop
  | .going c t => EngineFits t (some c.run)
  | .done t => EngineFits t none
  | .failed _ t => EngineFits t none

theorem engineFits_beginCodec {p : Params} {seq : List (Byte × Byte)} {c : CodecRun} {s : State}
    (h : beginCodec p seq = some c) (hs : s.cbWait = none) : EngineFits s (some c.run) := by
  cases seq with
  | nil => cases h
  | cons e rest =>
    cases h
    exact engineFits_beginTxn _ hs

theorem codecStep_fits {c : CodecRun} {s : State} (h : EngineFits s (some c.run)) : CodecFits (codecStep c s) := by
  have hengine := engineStep_fits h
  rcases codecStep_cases c s with ⟨r, t, he, e⟩ | ⟨t, he, e⟩ | ⟨b, t, c', he, hc, e⟩ | ⟨b, t, he, -, e⟩ <;>
    rw [he] at hengine <;> rw [e]
  · exact hengine
  · exact hengine
  · exact engineFits_beginCodec hc hengine.1
  · exact hengine

theorem engineFits_afterClockOn (p : Params) (s : State) (h : EngineFits s none) :
    EngineFits s (afterClockOn p).txn? := by
  unfold afterClockOn
  cases hc : beginCodec p p.cstartSeq with
  | none => exact h
  | some c => exact engineFits_beginCodec hc h.1

end Sys2Proof.Machine

/-! PROOFS. The registers of a block that is not streaming: what SETUP, START and the recovery sequence work on, and
what each of their groups of writes does to it (R130, R134, R137). -/

namespace Sys2Proof.Machine

/-! ### Off line -/

/-- The block does not run: every line is masked and the external receiver is off. Whoever runs
them, `do_setup` and `do_start` work on such a state (R130, R134, R186, R187). -/
structure Offline (s : State) : Prop where
  params_valid : s.params.Valid
  not_running : s.runState ≠ .running
  not_pending : s.recState ≠ .frameErrorPending
  masked : s.rxLineEn = false ∧ s.txLineEn = false ∧ s.feLineEn = false
  ext_off : s.extRxEn = false
  fe_clear : s.feStatus = false
  uninitialized_iff : s.runState ≠ .faulted → (s.runState = .uninitialized ↔ s.cfgValid = false)
  valid_config : s.cfgValid = true →
    s.bufsInit = true ∧ (rateOf s.cfgRate).isSome = true
      ∧ s.rxIrqEn = ⟨true, true, true, true⟩ ∧ s.txIrqEn = ⟨true, true⟩
  one_switch : s.rxEn = s.clocksOn ∧ s.txEn = s.clocksOn ∧ s.busEn = s.clocksOn
  armed_valid : s.clocksOn = true → s.bufsInit = true
  rx_residue : s.clocksOn = true → s.rxNdtr.toNat = s.params.nRx - s.rxProgress % s.params.nRx
  tx_residue : s.clocksOn = true → s.txNdtr.toNat = s.params.nTx - s.txProgress % s.params.nTx
  sample_le : s.lastProgress ≤ s.rxProgress
  rx_flags_armed : s.rxFlags ≠ ⟨false, false, false, false⟩ → s.clocksOn = true
  tx_flags_armed : s.txFlags ≠ ⟨false, false⟩ → s.clocksOn = true
  memory : MemoryInv s

theorem Offline.runStateInv {s : State} (h : Offline s) : RunStateInv s where
  uninitialized_iff := h.uninitialized_iff
  pending_running hp := absurd hp h.not_pending
  valid_config := h.valid_config
  running_enables hr := absurd hr h.not_running
  lines_need hl := by simp [h.masked, h.ext_off] at hl

/-- The clocks may be on only for somebody who waits for the word-select line or fails (R134, R187). -/
theorem Offline.streamInv {s : State} (h : Offline s)
    (armed : s.clocksOn = true → (∃ w n, s.fgProc = some (.start w n))
      ∨ (∃ w n, s.dispProc = some (.startWait w n)) ∨ ∃ e, s.dispProc = some (.fail e)) : StreamInv s where
  one_switch := h.one_switch
  armed_when hc := by
    rcases armed hc with hw | hw | hw <;> simp [hw]
  ext_armed he := by simp [h.ext_off] at he
  armed_valid := h.armed_valid
  rx_residue := h.rx_residue
  tx_residue := h.tx_residue
  sample_le := h.sample_le
  fe_gated hf := by simp [h.fe_clear] at hf
  rx_flags_armed := h.rx_flags_armed
  tx_flags_armed := h.tx_flags_armed

/-- Outside the stream and outside the first part of a recovery the block is off line (R137, R229 (d)). -/
theorem Inv.offline {s : State} (h : Inv s) (hrun : s.runState ≠ .running)
    (hrec : ¬(s.runState = .faulted ∧ s.dispPhase = .recover)) : Offline s := by
  have hlines : ¬(s.rxLineEn = true ∨ s.txLineEn = true ∨ s.feLineEn = true ∨ s.extRxEn = true) :=
    fun hl => (h.runState.lines_need hl).elim hrun hrec
  simp only [not_or, Bool.not_eq_true] at hlines
  obtain ⟨hrx, htx, hfe, hext⟩ := hlines
  exact {
    params_valid := h.params_valid
    not_running := hrun
    not_pending := fun hp => hrun (h.runState.pending_running hp)
    masked := ⟨hrx, htx, hfe⟩
    ext_off := hext
    fe_clear := Bool.eq_false_iff.2 fun hf => Bool.eq_false_iff.1 hext (h.stream.fe_gated hf)
    uninitialized_iff := h.runState.uninitialized_iff
    valid_config := h.runState.valid_config
    one_switch := h.stream.one_switch
    armed_valid := h.stream.armed_valid
    rx_residue := h.stream.rx_residue
    tx_residue := h.stream.tx_residue
    sample_le := h.stream.sample_le
    rx_flags_armed := h.stream.rx_flags_armed
    tx_flags_armed := h.stream.tx_flags_armed
    memory := h.memory }

theorem Offline.configured_valid {s : State} (h : Offline s) (hc : s.runState = .configured) : s.cfgValid = true := by
  have hiff := h.uninitialized_iff (by simp [hc])
  simpa [hc] using hiff

/-! ### The groups of writes -/

theorem Offline.onlyBus {s t : State} (h : Offline s) (ht : OnlyBus s t) : Offline t := by
  obtain ⟨sr, x, tr, rfl⟩ := ht
  exact { h with memory := { h.memory with } }

theorem Offline.invalidateConfig {s : State} (h : Offline s) : Offline (invalidateConfig s) :=
  { h with
    not_running := nofun
    uninitialized_iff := fun _ => by simp
    valid_config := nofun
    memory := { h.memory with } }

theorem Offline.dmaConfigure {s : State} (h : Offline s) (hoff : s.clocksOn = false) : Offline (dmaConfigure s) :=
  { h with
    valid_config := fun hv =>
      have ⟨hinit, hrate, _⟩ := h.valid_config hv
      ⟨hinit, hrate, rfl, rfl⟩
    one_switch := ⟨hoff.symm, hoff.symm, h.one_switch.2.2⟩
    rx_flags_armed := fun hf => absurd rfl hf
    tx_flags_armed := fun hf => absurd rfl hf
    memory := { h.memory with } }

/-- Zeroing writes every byte of both buffers and none outside them (R133). -/
theorem zeroBuffers_memoryInv {s : State} (h : MemoryInv s) : MemoryInv (zeroBuffers s) where
  canonical := zeroBuffers_wf h.canonical
  inside c hc := by
    rcases mem_zeroItems hc with htx | hc
    · right
      simp only [zeroBuffers_params, Params.dbufBytesTx, Config.itemBytes]
      omega
    · rcases mem_zeroItems hc with hrx | hc
      · left
        simp only [zeroBuffers_params, Params.dbufBytesRx, Config.itemBytes]
        omega
      · exact h.inside c hc
  written _ a ha := by
    simp only [inBuffers, zeroBuffers_params, Params.dbufBytesRx, Params.dbufBytesTx, Config.itemBytes] at ha
    simp only [zeroBuffers, byteAt_zeroItems]
    split_ifs
    · rfl
    · rfl
    · omega

theorem Offline.zeroBuffers {s : State} (h : Offline s) : Offline (zeroBuffers s) :=
  { h with
    valid_config := fun hv => ⟨rfl, (h.valid_config hv).2⟩
    armed_valid := fun _ => rfl
    memory := zeroBuffers_memoryInv h.memory }

theorem Offline.finishSetup {s : State} {rate : BitVec 24} (h : Offline s) (hpos : SetupPosOk s rate .finish) :
    Offline (finishSetup rate s) := by
  obtain ⟨hrate, hinit, -, hirq⟩ := hpos
  exact { h with
    not_running := nofun
    uninitialized_iff := fun _ => by simp
    valid_config := fun _ => ⟨hinit rfl, hrate, hirq (.inl rfl)⟩
    memory := { h.memory with } }

theorem nRx_pos {p : Params} (h : p.Valid) : 0 < p.nRx := by
  obtain ⟨hframes, -⟩ := h
  simp only [Params.nRx, Params.blockItemsRx, Config.chIn]
  omega

theorem nTx_pos {p : Params} (h : p.Valid) : 0 < p.nTx := by
  obtain ⟨hframes, -⟩ := h
  simp only [Params.nTx, Params.blockItemsTx, Config.chOut]
  omega

/-- Both counts fit their 16-bit registers (R8). -/
theorem nRx_toNat {p : Params} (h : p.Valid) : (BitVec.ofNat 16 p.nRx).toNat = p.nRx := by
  obtain ⟨-, hle, -⟩ := h
  exact Nat.mod_eq_of_lt (Nat.lt_succ_of_le hle)

theorem nTx_toNat {p : Params} (h : p.Valid) : (BitVec.ofNat 16 p.nTx).toNat = p.nTx := by
  obtain ⟨-, -, hle, -⟩ := h
  exact Nat.mod_eq_of_lt (Nat.lt_succ_of_le hle)

theorem Offline.armStream {s : State} (h : Offline s) (hinit : s.bufsInit = true) : Offline (armStream s) :=
  { h with
    one_switch := ⟨rfl, rfl, rfl⟩
    armed_valid := fun _ => hinit
    rx_residue := fun _ => (nRx_toNat h.params_valid).trans (by simp)
    tx_residue := fun _ => (nTx_toNat h.params_valid).trans (by simp)
    sample_le := Nat.le_refl _
    rx_flags_armed := fun _ => rfl
    tx_flags_armed := fun _ => rfl
    memory := { h.memory with } }

/-- `do_disable` takes the block off line from any state it can be called in (R137). -/
theorem doDisable_offline {s : State} (hp : s.params.Valid) (hm : MemoryInv s) (hle : s.lastProgress ≤ s.rxProgress)
    (hcfg : s.cfgValid = true →
      s.bufsInit = true ∧ (rateOf s.cfgRate).isSome = true
        ∧ s.rxIrqEn = ⟨true, true, true, true⟩ ∧ s.txIrqEn = ⟨true, true⟩) : Offline (doDisable s) where
  params_valid := hp
  not_running := by
    simp only [doDisable_runState]
    split <;> nofun
  not_pending := by
    simp only [doDisable_recState]
    split <;> simp [*]
  masked := ⟨rfl, rfl, rfl⟩
  ext_off := rfl
  fe_clear := rfl
  uninitialized_iff _ := by cases hv : s.cfgValid <;> simp [hv]
  valid_config := hcfg
  one_switch := ⟨rfl, rfl, rfl⟩
  armed_valid := nofun
  rx_residue := nofun
  tx_residue := nofun
  sample_le := hle
  rx_flags_armed hf := absurd rfl hf
  tx_flags_armed hf := absurd rfl hf
  memory := { hm with }

theorem Inv.offline_doDisable {s : State} (h : Inv s) : Offline (doDisable s) :=
  doDisable_offline h.params_valid h.memory h.stream.sample_le h.runState.valid_config

/-- The block is off line with its clocks stopped, and no transaction is in progress. -/
structure Stopped (s : State) : Prop where
  offline : Offline s
  clocks_off : s.clocksOn = false
  engine_idle : EngineFits s none

/-! ### `do_setup` -/

/-- `do_setup` at this position has what it needs to go on (R130). -/
structure SetupReady (rate : BitVec 24) (pos : SetupPos) (s : State) : Prop where
  offline : Offline s
  clocks_off : s.clocksOn = false
  pos_ok : SetupPosOk s rate pos
  engine : EngineFits s pos.txn?

/-- What `do_setup` answers is ready to go on with the run state as it was, or has ended off line. -/
def SetupSound (rate : BitVec 24) (before : RunState) : ProcResult SetupPos → Prop
  | .going pos t => SetupReady rate pos t ∧ t.runState = before
  | .done t => Stopped t ∧ t.runState = .configured
  | .failed _ t => Stopped t

/-- A position that neither zeroes nor writes the configuration needs the supported rate only. -/
theorem setupPosOk_of_early {s : State} {rate : BitVec 24} {pos : SetupPos} (hrate : (rateOf rate).isSome = true)
    (hfinish : pos ≠ .finish) (hzero : pos ≠ .zeroBuffers) : SetupPosOk s rate pos :=
  ⟨hrate, fun h => absurd h hfinish, fun h => absurd h hzero, fun h => absurd h (not_or.2 ⟨hfinish, hzero⟩)⟩

theorem afterClockOn_ne (p : Params) : afterClockOn p ≠ .finish ∧ afterClockOn p ≠ .zeroBuffers := by
  unfold afterClockOn
  cases beginCodec p p.cstartSeq <;> exact ⟨nofun, nofun⟩

theorem setupBegin_sound (rate : BitVec 24) {s : State} (h : Stopped s) :
    SetupSound rate s.runState (setupBegin rate s) := by
  rcases setupBegin_cases rate s with ⟨-, e⟩ | ⟨-, -, e⟩ | ⟨r, hr, -, e⟩ <;> rw [e]
  · exact h
  · exact h
  · refine ⟨⟨?_, h.clocks_off, setupPosOk_of_early (by rw [hr]; rfl) nofun nofun, h.engine_idle⟩, rfl⟩
    exact { h.offline with memory := { h.offline.memory with } }

theorem setupStep_sound {rate : BitVec 24} {pos : SetupPos} {s : State} (h : SetupReady rate pos s) :
    SetupSound rate s.runState (setupStep rate pos s) := by
  obtain ⟨hoff, hclk, hpos, heng⟩ := h
  have hrate : (rateOf rate).isSome = true := hpos.1
  rcases setupStep_cases rate pos s with ⟨left, rfl, -, e⟩ | ⟨left, rfl, -, -, e⟩ | ⟨left, rfl, -, -, e⟩ | ⟨rfl, e⟩
      | ⟨c, c', t, rfl, hc, e⟩ | ⟨c, t, rfl, hc, e⟩ | ⟨c, err, t, rfl, hc, e⟩ | ⟨rfl, hinit, e⟩ | ⟨rfl, hinit, e⟩
      | ⟨rfl, e⟩ | ⟨rfl, e⟩ <;> rw [e]
  · exact ⟨⟨hoff, hclk, setupPosOk_of_early hrate nofun nofun, heng⟩, rfl⟩
  · exact ⟨⟨hoff, hclk, setupPosOk_of_early hrate nofun nofun, heng⟩, rfl⟩
  · exact ⟨hoff.invalidateConfig, hclk, heng⟩
  · obtain ⟨hfinish, hzero⟩ := afterClockOn_ne s.params
    exact ⟨⟨{ hoff with memory := { hoff.memory with } }, hclk, setupPosOk_of_early hrate hfinish hzero,
      engineFits_afterClockOn s.params { s with cbClkOn := true } heng⟩, rfl⟩
  · have hbus := onlyBus_of_codecStep hc
    have hfits : CodecFits _ := hc ▸ codecStep_fits heng
    exact ⟨⟨hoff.onlyBus hbus, hbus.clocksOn.trans hclk, setupPosOk_of_early hrate nofun nofun, hfits⟩, hbus.runState⟩
  · have hbus := onlyBus_of_codecStep hc
    have hfits : CodecFits _ := hc ▸ codecStep_fits heng
    exact ⟨⟨hoff.onlyBus hbus, hbus.clocksOn.trans hclk, setupPosOk_of_early hrate nofun nofun, hfits⟩, hbus.runState⟩
  · have hbus := onlyBus_of_codecStep hc
    have hfits : CodecFits _ := hc ▸ codecStep_fits heng
    exact ⟨(hoff.onlyBus hbus).invalidateConfig, hbus.clocksOn.trans hclk, hfits⟩
  · exact ⟨⟨hoff.dmaConfigure hclk, hclk, ⟨hrate, fun _ => hinit, nofun, fun _ => ⟨rfl, rfl⟩⟩, heng⟩, rfl⟩
  · exact ⟨⟨hoff.dmaConfigure hclk, hclk, ⟨hrate, nofun, fun _ => hinit, fun _ => ⟨rfl, rfl⟩⟩, heng⟩, rfl⟩
  · obtain ⟨-, -, -, hirq⟩ := hpos
    exact ⟨⟨hoff.zeroBuffers, hclk, ⟨hrate, fun _ => rfl, nofun, fun _ => hirq (.inr rfl)⟩, heng⟩, rfl⟩
  · exact ⟨⟨hoff.finishSetup hpos, hclk, heng⟩, rfl⟩

/-! ### `do_start` -/

/-- `do_start` waits for the word-select line (R134). -/
structure StartReady (s : State) : Prop where
  offline : Offline s
  clocks_on : s.clocksOn = true
  configured : s.runState = .configured
  engine_idle : EngineFits s none

/-- What `do_start` answers still waits, has opened the stream of a waiting state, or has ended off line. -/
def StartSound : ProcResult (Bool × Nat) → Prop
  | .going _ t => StartReady t
  | .done t => ∃ s, StartReady s ∧ t = openStream s
  | .failed _ t => Stopped t

theorem startBegin_sound {s : State} (h : Stopped s) : StartSound (startBegin s) := by
  rcases startBegin_cases s with ⟨hc, e⟩ | ⟨-, e⟩ <;> rw [e]
  · obtain ⟨hinit, -⟩ := h.offline.valid_config (h.offline.configured_valid hc)
    exact ⟨h.offline.armStream hinit, rfl, hc, h.engine_idle⟩
  · exact h

theorem startStep_sound (ws0 : Bool) (left : Nat) {s : State} (h : StartReady s) :
    StartSound (startStep ws0 left s) := by
  rcases startStep_cases ws0 left s with ⟨-, e⟩ | ⟨-, -, e⟩ | ⟨-, -, e⟩ <;> rw [e]
  · exact ⟨s, h, rfl⟩
  · have hoff := doDisable_offline h.offline.params_valid h.offline.memory h.offline.sample_le h.offline.valid_config
    exact ⟨hoff, rfl, h.engine_idle⟩
  · exact h

/-- Step B enables everything that a running block needs (R28, R134). -/
theorem StartReady.openStream_runStateInv {s : State} (h : StartReady s) : RunStateInv (openStream s) where
  uninitialized_iff _ := by simp [h.offline.configured_valid h.configured]
  pending_running _ := rfl
  valid_config := h.offline.valid_config
  running_enables _ := ⟨h.offline.configured_valid h.configured, h.clocks_on, rfl, rfl, rfl, rfl⟩
  lines_need _ := .inl rfl

theorem StartReady.openStream_streamInv {s : State} (h : StartReady s) : StreamInv (openStream s) where
  one_switch := h.offline.one_switch
  armed_when _ := .inl rfl
  ext_armed _ := h.clocks_on
  armed_valid := h.offline.armed_valid
  rx_residue := h.offline.rx_residue
  tx_residue := h.offline.tx_residue
  sample_le := h.offline.sample_le
  fe_gated _ := rfl
  rx_flags_armed := h.offline.rx_flags_armed
  tx_flags_armed := h.offline.tx_flags_armed

end Sys2Proof.Machine

/-! PROOFS. Who runs a procedure: the foreground, which is alone while its operation is in progress, or DISP inside the
recovery sequence; and the steps of both (R21, R110, R183 to R190, R229). -/

namespace Sys2Proof.Machine

/-! ### The foreground -/

theorem ForegroundInv.of_idle {s : State} (hbusy : s.fgBusy = false) (hproc : s.fgProc = none) : ForegroundInv s where
  busy_iff := by rw [hbusy, hproc]; rfl
  busy_alone h := by simp [hbusy] at h
  busy_masked h := by simp [hbusy] at h
  setup_ok _ _ h := by simp [hproc] at h
  start_ok _ _ h := by simp [hproc] at h

theorem DispatcherInv.of_idle {s : State} (hphase : s.dispPhase = .idle) (hproc : s.dispProc = none)
    (hrec : s.recState ≠ .recovering) : DispatcherInv s where
  proc_iff := by simp [hphase, hproc]
  recovering_iff := by simp [hphase, hrec]
  setup_ok _ _ h := by simp [hproc] at h
  armed_part _ h := by simp [hproc] at h
  later_part _ h := by simp [hproc] at h
  wait_armed _ _ h := by simp [hproc] at h
  active_init h := absurd hphase h
  callback_state h := by simp [hphase] at h

/-- No handler is active and no recovery in progress (R55). -/
structure DispIdle (s : State) : Prop where
  phase : s.dispPhase = .idle
  proc : s.dispProc = none
  not_recovering : s.recState ≠ .recovering

theorem DispIdle.dispatcherInv {s : State} (h : DispIdle s) : DispatcherInv s :=
  .of_idle h.phase h.proc h.not_recovering

theorem DispIdle.of_frame {s t : State} (h : DispIdle s) (hpend : s.recState ≠ .frameErrorPending)
    (hf : ProcFrame s t) : DispIdle t :=
  ⟨hf.dispPhase.trans h.phase, hf.dispProc.trans h.proc, hf.recState hpend ▸ h.not_recovering⟩

theorem Inv.dispProc_eq_none {s : State} (h : Inv s) (hphase : s.dispPhase ≠ .recover) : s.dispProc = none := by
  have hiff := h.dispatcher.proc_iff
  simpa [hphase] using hiff

theorem Inv.dispIdle {s : State} (h : Inv s) (hphase : s.dispPhase = .idle) : DispIdle s :=
  ⟨hphase, h.dispProc_eq_none (by simp [hphase]),
    fun hrec => by simpa [hphase] using h.dispatcher.recovering_iff.1 hrec⟩

theorem Inv.fgProc_eq_none {s : State} (h : Inv s) (hbusy : s.fgBusy = false) : s.fgProc = none := by
  have hsome : s.fgProc.isSome = false := h.foreground.busy_iff ▸ hbusy
  exact Option.isSome_eq_false_iff.1 hsome |> Option.isNone_iff_eq_none.1

/-- What the continuation of FG's operation asks of the registers. -/
def FgFits (s : State) : FgProc → Prop
  | .setup rate pos => s.clocksOn = false ∧ SetupPosOk s rate pos
  | .start _ _ => s.clocksOn = true ∧ s.runState = .configured
  | .transaction _ => s.clocksOn = false

/-- FG has an operation in progress at `k`: it is alone, and the block is off line (R229 (d)). -/
structure FgAt (k : FgProc) (s : State) : Prop where
  alone : DispIdle s
  offline : Offline s
  fits : FgFits s k
  engine : EngineFits s k.txn?

theorem FgAt.inv_continueFg {k : FgProc} {s : State} (h : FgAt k s) : Inv (continueFg k s) where
  params_valid := h.offline.params_valid
  foreground := {
    busy_iff := rfl
    busy_alone := fun _ => ⟨h.alone.phase, h.offline.not_running⟩
    busy_masked := fun _ => h.offline.masked
    setup_ok := fun rate pos hk => by
      cases hk
      exact h.fits.2
    start_ok := fun ws0 left hk => by
      cases hk
      exact ⟨h.fits.2, h.fits.1⟩ }
  dispatcher := { h.alone.dispatcherInv with }
  runState := { h.offline.runStateInv with }
  stream := by
    have hoff : Offline (continueFg k s) := { h.offline with memory := { h.offline.memory with } }
    have hfits := h.fits
    refine hoff.streamInv fun hclk => ?_
    change s.clocksOn = true at hclk
    cases k with
    | setup rate pos => exact absurd hclk (Bool.eq_false_iff.1 hfits.1)
    | start ws0 left => exact .inl ⟨ws0, left, rfl⟩
    | transaction r => exact absurd hclk (Bool.eq_false_iff.1 hfits)
  engine := (engineInv_iff _).2 h.engine
  memory := { h.offline.memory with }

theorem Stopped.streamInv {s : State} (h : Stopped s) : StreamInv s :=
  h.offline.streamInv fun hclk => absurd hclk (Bool.eq_false_iff.1 h.clocks_off)

theorem State.txn?_of_idle {s : State} (hfg : s.fgProc = none) (hdisp : s.dispProc = none) : s.txn? = none := by
  simp [State.txn?, hfg, hdisp]

/-- A stopped block in which nothing is in progress. -/
theorem Stopped.inv {s : State} (h : Stopped s) (hd : DispIdle s) (hbusy : s.fgBusy = false) (hproc : s.fgProc = none) :
    Inv s where
  params_valid := h.offline.params_valid
  foreground := .of_idle hbusy hproc
  dispatcher := hd.dispatcherInv
  runState := h.offline.runStateInv
  stream := h.streamInv
  engine := (engineInv_iff s).2 (State.txn?_of_idle hproc hd.proc ▸ h.engine_idle)
  memory := h.offline.memory

theorem Stopped.inv_release {s : State} (h : Stopped s) (hd : DispIdle s) :
    Inv { s with fgBusy := false, fgProc := none } := by
  refine Stopped.inv ⟨?_, h.clocks_off, h.engine_idle⟩ ⟨hd.phase, hd.proc, hd.not_recovering⟩ rfl rfl
  exact { h.offline with memory := { h.offline.memory with } }

theorem Stopped.inv_succeed {s : State} (h : Stopped s) (hd : DispIdle s) (d : Word32) : Inv (succeed d s) :=
  (h.inv_release hd).of_view rfl

theorem Stopped.inv_raiseError {s : State} (h : Stopped s) (hd : DispIdle s) (e : ErrCode) : Inv (raiseError e s) :=
  (h.inv_release hd).of_view rfl

/-- A running block with nothing in progress; a callback may be active (R28, R55). -/
theorem inv_of_running {s : State} (hp : s.params.Valid) (hfg : s.fgBusy = false ∧ s.fgProc = none)
    (hdisp : DispatcherInv s) (hproc : s.dispProc = none) (hrun : RunStateInv s) (hstream : StreamInv s)
    (heng : EngineFits s none) (hmem : MemoryInv s) : Inv s where
  params_valid := hp
  foreground := .of_idle hfg.1 hfg.2
  dispatcher := hdisp
  runState := hrun
  stream := hstream
  engine := (engineInv_iff s).2 (State.txn?_of_idle hfg.2 hproc ▸ heng)
  memory := hmem

theorem StartReady.inv_succeed {s : State} (h : StartReady s) (hd : DispIdle s) : Inv (succeed 0 (openStream s)) :=
  inv_of_running h.offline.params_valid ⟨rfl, rfl⟩ (.of_idle hd.phase hd.proc hd.not_recovering) hd.proc
    { h.openStream_runStateInv with } { h.openStream_streamInv with armed_when := fun _ => .inl rfl } h.engine_idle
    { h.offline.memory with }

/-- What the invariant says of an operation in progress. -/
theorem Inv.fgAt {s : State} {k : FgProc} (h : Inv s) (hk : s.fgProc = some k) : FgAt k s := by
  have hbusy : s.fgBusy = true := by rw [h.foreground.busy_iff, hk]; rfl
  obtain ⟨hphase, hrun⟩ := h.foreground.busy_alone hbusy
  have hidle := h.dispIdle hphase
  have hclk : (∀ w n, k ≠ .start w n) → s.clocksOn = false := fun hne => Bool.eq_false_iff.2 fun hclk => by
    have harmed := h.stream.armed_when hclk
    simp [hrun, hk, hne, hidle.proc] at harmed
  refine ⟨hidle, h.offline hrun (by simp [hphase]), ?_, ?_⟩
  · cases k with
    | setup rate pos => exact ⟨hclk nofun, h.foreground.setup_ok rate pos hk⟩
    | start ws0 left => exact (h.foreground.start_ok ws0 left hk).symm
    | transaction r => exact hclk nofun
  · have hfits := (engineInv_iff s).1 h.engine
    simpa [State.txn?, hk] using hfits

theorem inv_settleSetup {s : State} {rate : BitVec 24} {before : RunState} {r : ProcResult SetupPos} (hd : DispIdle s)
    (hpend : s.recState ≠ .frameErrorPending) (hframe : ProcFrame s r.state) (h : SetupSound rate before r) :
    Inv (settleSetup rate r) := by
  cases r with
  | going pos t =>
    obtain ⟨⟨hoff, hclk, hpos, heng⟩, -⟩ := h
    exact FgAt.inv_continueFg ⟨hd.of_frame hpend hframe, hoff, ⟨hclk, hpos⟩, heng⟩
  | done t => exact h.1.inv_succeed (hd.of_frame hpend hframe) 0
  | failed e t => exact h.inv_raiseError (hd.of_frame hpend hframe) e

theorem inv_settleStart {r : ProcResult (Bool × Nat)} (hd : DispIdle r.state) (h : StartSound r) :
    Inv (settleStart r) := by
  cases r with
  | going pos t => exact FgAt.inv_continueFg ⟨hd, h.offline, ⟨h.clocks_on, h.configured⟩, h.engine_idle⟩
  | done t =>
    obtain ⟨s, hs, rfl⟩ := h
    exact hs.inv_succeed ⟨hd.phase, hd.proc, hd.not_recovering⟩
  | failed e t => exact h.inv_raiseError hd e

theorem inv_settleTxn {s : State} (t : Txn) {r : EngineResult} (hd : DispIdle s) (hoff : Offline s)
    (hclk : s.clocksOn = false) (hbus : OnlyBus s r.state) (hfits : r.Fits) : Inv (settleTxn t r) := by
  have hstopped : ∀ {u}, OnlyBus s u → EngineFits u none → Stopped u := fun hu he =>
    ⟨hoff.onlyBus hu, hu.clocksOn.trans hclk, he⟩
  cases r with
  | going r u =>
    exact FgAt.inv_continueFg
      ⟨hd.of_frame hoff.not_pending hbus.frame, hoff.onlyBus hbus, hbus.clocksOn.trans hclk, hfits⟩
  | done b u => exact (hstopped hbus hfits).inv_succeed (hd.of_frame hoff.not_pending hbus.frame) _
  | timedOut u => exact (hstopped hbus hfits).inv_raiseError (hd.of_frame hoff.not_pending hbus.frame) _

theorem fgStepAt_inv {k : FgProc} {s : State} (h : FgAt k s) : Inv (fgStepAt k s) := by
  obtain ⟨hd, hoff, hfits, heng⟩ := h
  cases k with
  | setup rate pos =>
    obtain ⟨hclk, hpos⟩ := hfits
    exact inv_settleSetup hd hoff.not_pending (setupStep_frame rate pos s) (setupStep_sound ⟨hoff, hclk, hpos, heng⟩)
  | start ws0 left =>
    obtain ⟨hclk, hc⟩ := hfits
    have hidle := hd.of_frame hoff.not_pending (startStep_frame ws0 left s)
    exact inv_settleStart hidle (startStep_sound ws0 left ⟨hoff, hclk, hc, heng⟩)
  | transaction r => exact inv_settleTxn r.txn hd hoff hfits (engineStep_onlyBus r s) (engineStep_fits heng)

theorem fgStep_inv {s : State} (h : Inv s) : Inv (fgStep s) := by
  unfold fgStep
  split
  next k hk => exact fgStepAt_inv (h.fgAt hk)
  next => exact h

/-! ### Host operations -/

/-- The block accepts commands: no operation is in progress and no handler is active (R45, R80). -/
theorem acceptsCommand_iff (s : State) :
    acceptsCommand s = true ↔
      s.fgBusy = false ∧ s.dispPhase = .idle ∧ irqRx s = false ∧ irqTx s = false ∧ irqFe s = false := by
  simp only [acceptsCommand, Bool.and_eq_true, Bool.not_eq_true', fgMayStep_iff]

/-- A response alone keeps the invariant, also while the block runs (R82, R211). -/
theorem Inv.of_release {s t : State} (h : Inv s) (hbusy : s.fgBusy = false)
    (e : t.invView = State.invView { s with fgBusy := false, fgProc := none }) : Inv t := by
  have hs : ({ s with fgBusy := false, fgProc := none } : State) = s := by
    rw [← hbusy, ← h.fgProc_eq_none hbusy]
  exact h.of_view (hs ▸ e)

/-- A block that accepts commands and does not run is stopped (R229). -/
theorem Inv.stopped {s : State} (h : Inv s) (hbusy : s.fgBusy = false) (hphase : s.dispPhase = .idle)
    (hrun : s.runState ≠ .running) : Stopped s where
  offline := h.offline hrun (by simp [hphase])
  clocks_off := Bool.eq_false_iff.2 fun hclk => by
    have harmed := h.stream.armed_when hclk
    simp [hrun, h.fgProc_eq_none hbusy, (h.dispIdle hphase).proc] at harmed
  engine_idle := h.engine.idle_clear (State.txn?_of_idle (h.fgProc_eq_none hbusy) (h.dispIdle hphase).proc)

theorem Inv.engineFits_none {s : State} (h : Inv s) (hbusy : s.fgBusy = false) (hphase : s.dispPhase ≠ .recover) :
    EngineFits s none :=
  h.engine.idle_clear (State.txn?_of_idle (h.fgProc_eq_none hbusy) (h.dispProc_eq_none hphase))

section
variable {s : State} (h : Inv s) (hbusy : s.fgBusy = false) (hphase : s.dispPhase = .idle)
include h hbusy hphase

theorem inv_execSetup (rate : BitVec 24) : Inv (settleSetup rate (setupBegin rate s)) := by
  by_cases hrun : s.runState = .running
  · rcases setupBegin_cases rate s with ⟨-, e⟩ | ⟨-, -, e⟩ | ⟨r, -, hne, e⟩
    · rw [e]
      exact h.of_release hbusy rfl
    · rw [e]
      exact h.of_release hbusy rfl
    · exact absurd hrun hne
  · have hstopped := h.stopped hbusy hphase hrun
    exact inv_settleSetup (h.dispIdle hphase) hstopped.offline.not_pending (setupBegin_frame rate s)
      (setupBegin_sound rate hstopped)

theorem inv_execStart : Inv (settleStart (startBegin s)) := by
  have hd := h.dispIdle hphase
  rcases startBegin_cases s with ⟨hc, e⟩ | ⟨-, e⟩
  · have hsound := startBegin_sound (h.stopped hbusy hphase (by simp [hc]))
    rw [e] at hsound ⊢
    have hidle : DispIdle (armStream s) := ⟨hd.phase, hd.proc, hd.not_recovering⟩
    exact inv_settleStart hidle hsound
  · rw [e]
    exact h.of_release hbusy rfl

theorem inv_execDisable : Inv (succeed 0 (doDisable s)) := by
  have hd := h.dispIdle hphase
  have heng := h.engineFits_none hbusy (by simp [hphase])
  refine Stopped.inv_succeed ⟨h.offline_doDisable, rfl, heng⟩ ⟨hd.phase, hd.proc, ?_⟩ 0
  simp only [doDisable_recState]
  split
  · nofun
  · exact hd.not_recovering

theorem inv_beginRegisterOp (t : Txn) : Inv (beginRegisterOp t s) := by
  unfold beginRegisterOp
  split
  next hadmit =>
    obtain ⟨-, hrun⟩ : s.cbClkOn = true ∧ s.runState ≠ .running := by simpa [registerOpAdmitted] using hadmit
    have hstopped := h.stopped hbusy hphase hrun
    exact FgAt.inv_continueFg ⟨h.dispIdle hphase, hstopped.offline, hstopped.clocks_off, hstopped.engine_idle.1⟩
  next => exact h.of_release hbusy rfl

theorem exec_inv (i : Instr) {t : State} (ht : exec i s = .next t) : Inv t := by
  cases i with
  | setup rate =>
    cases ht
    exact inv_execSetup h hbusy hphase rate
  | start =>
    cases ht
    exact inv_execStart h hbusy hphase
  | disable =>
    cases ht
    exact inv_execDisable h hbusy hphase
  | writeRegister dev reg val =>
    cases ht
    exact inv_beginRegisterOp h hbusy hphase _
  | readRegister dev reg =>
    cases ht
    exact inv_beginRegisterOp h hbusy hphase _
  | getProperty sel =>
    cases ht
    split
    · exact h.of_release hbusy rfl
    · exact h.of_release hbusy rfl
  | getStatus sel =>
    cases ht
    exact h.of_release hbusy rfl
  | clearUnderrun =>
    cases ht
    exact h.of_release hbusy rfl

end

theorem accept_inv {w : Word32} {s t : State} (h : Inv s) (hacc : acceptsCommand s = true)
    (ht : accept w s = .next t) : Inv t := by
  obtain ⟨hbusy, hphase, -⟩ := (acceptsCommand_iff s).1 hacc
  rcases accept_cases w s with ⟨i, -, e⟩ | ⟨_, -, e⟩ <;> rw [e] at ht
  · have hcmd : Inv { s with cmd := w } := h.of_view rfl
    exact exec_inv hcmd hbusy hphase i ht
  · cases ht
    exact h.of_release hbusy rfl

/-! ### The recovery sequence -/

/-- DISP is inside the recovery sequence, and FG has nothing in progress (R190, R192). -/
structure Recovering (s : State) : Prop where
  fg_idle : s.fgBusy = false ∧ s.fgProc = none
  phase : s.dispPhase = .recover
  recovering : s.recState = .recovering
  bufs_init : s.bufsInit = true

theorem Recovering.of_frame {s t : State} (h : Recovering s) (hf : ProcFrame s t) : Recovering t where
  fg_idle := ⟨hf.fgBusy.trans h.fg_idle.1, hf.fgProc.trans h.fg_idle.2⟩
  phase := hf.dispPhase.trans h.phase
  recovering := (hf.recState (by simp [h.recovering])).trans h.recovering
  bufs_init := hf.bufsInit h.bufs_init

/-- What the continuation of the recovery sequence asks of the registers (R183 to R187). -/
def RecoveryFits (s : State) : RecoveryProc → Prop
  | .correct _ => s.runState = .faulted ∧ s.cfgValid = true
  | .teardown => s.runState = .faulted ∧ s.cfgValid = true
  | .setupBegin => s.runState = .configured ∧ s.clocksOn = false
  | .setup rate pos => s.runState = .configured ∧ s.clocksOn = false ∧ SetupPosOk s rate pos
  | .startBegin => s.runState = .configured ∧ s.clocksOn = false
  | .startWait _ _ => s.runState = .configured ∧ s.clocksOn = true
  | .fail _ => True

/-- DISP is inside the recovery sequence at `k`. -/
structure RecoveryAt (k : RecoveryProc) (s : State) : Prop where
  recovering : Recovering s
  fits : RecoveryFits s k
  engine : EngineFits s k.txn?

theorem RecoveryAt.dispatcherInv {k : RecoveryProc} {s : State} (h : RecoveryAt k s) :
    DispatcherInv (continueRecovery k s) := by
  obtain ⟨hrec, hfits, -⟩ := h
  constructor
  case proc_iff => simp [hrec.phase]
  case recovering_iff => simp [hrec.phase, hrec.recovering]
  case active_init => exact fun _ => hrec.bufs_init
  case callback_state => exact fun hcb => by simp [hrec.phase] at hcb
  case setup_ok =>
    intro rate pos hk
    cases hk
    exact hfits.2.2
  case wait_armed =>
    intro ws0 left hk
    cases hk
    exact hfits.2
  case armed_part =>
    intro k' hk hpart
    cases hk
    rcases hpart with ⟨c, rfl⟩ | rfl
    · exact hfits
    · exact hfits
  case later_part =>
    intro k' hk hpart
    cases hk
    rcases hpart with rfl | ⟨rate, pos, rfl⟩ | rfl | ⟨ws0, left, rfl⟩ <;> exact hfits.1

theorem RecoveryAt.inv {k : RecoveryProc} {s : State} (h : RecoveryAt k s) (hp : s.params.Valid)
    (hrun : RunStateInv s) (hstream : StreamInv (continueRecovery k s)) (hmem : MemoryInv s) :
    Inv (continueRecovery k s) where
  params_valid := hp
  foreground := .of_idle h.recovering.fg_idle.1 h.recovering.fg_idle.2
  dispatcher := h.dispatcherInv
  runState := { hrun with }
  stream := hstream
  engine := by
    have htxn : (continueRecovery k s).txn? = k.txn? := by
      simp [State.txn?, h.recovering.fg_idle.2]
    exact (engineInv_iff _).2 (htxn ▸ h.engine)
  memory := { hmem with }

/-- The steps (c) and (d) work on a block that is off line. -/
theorem RecoveryAt.inv_of_offline {k : RecoveryProc} {s : State} (h : RecoveryAt k s) (hoff : Offline s)
    (hpart : s.clocksOn = false ∨ (∃ w n, k = .startWait w n) ∨ ∃ e, k = .fail e) : Inv (continueRecovery k s) := by
  have hnext : Offline (continueRecovery k s) := { hoff with memory := { hoff.memory with } }
  refine h.inv hoff.params_valid hoff.runStateInv (hnext.streamInv fun hclk => ?_) hoff.memory
  change s.clocksOn = true at hclk
  rcases hpart with hfalse | ⟨w, n, rfl⟩ | ⟨e, rfl⟩
  · exact absurd hclk (Bool.eq_false_iff.1 hfalse)
  · exact .inr (.inl ⟨w, n, rfl⟩)
  · exact .inr (.inr ⟨e, rfl⟩)

theorem Stopped.inv_recoveryFails {s : State} (h : Stopped s) (hrec : Recovering s) (e : ErrCode) :
    Inv (continueRecovery (.fail e) s) :=
  RecoveryAt.inv_of_offline ⟨hrec, trivial, h.engine_idle⟩ h.offline (.inl h.clocks_off)

/-- What the invariant says of a recovery in progress. -/
theorem Inv.recoveryAt {s : State} {k : RecoveryProc} (h : Inv s) (hk : s.dispProc = some k) : RecoveryAt k s := by
  have hphase : s.dispPhase = .recover := h.dispatcher.proc_iff.1 (by rw [hk]; rfl)
  have hbusy : s.fgBusy = false := Bool.eq_false_iff.2 fun hb => by
    simpa [hphase] using (h.foreground.busy_alone hb).1
  have hfg := h.fgProc_eq_none hbusy
  have hrec : Recovering s :=
    ⟨⟨hbusy, hfg⟩, hphase, h.dispatcher.recovering_iff.2 hphase, h.dispatcher.active_init (by simp [hphase])⟩
  have hclk : s.runState ≠ .running → (∀ c, k ≠ .correct c) → k ≠ .teardown → (∀ w n, k ≠ .startWait w n)
      → (∀ e, k ≠ .fail e) → s.clocksOn = false := by
    intro h1 h2 h3 h4 h5
    refine Bool.eq_false_iff.2 fun hclk => ?_
    have harmed := h.stream.armed_when hclk
    simp [h1, h2, h3, h4, h5, hk, hfg] at harmed
  have hlater := h.dispatcher.later_part k hk
  have harmed := h.dispatcher.armed_part k hk
  refine ⟨hrec, ?_, ?_⟩
  · cases k with
    | correct c => exact harmed (.inl ⟨c, rfl⟩)
    | teardown => exact harmed (.inr rfl)
    | setupBegin =>
      have hc := hlater (.inl rfl)
      exact ⟨hc, hclk (by simp [hc]) nofun nofun nofun nofun⟩
    | setup rate pos =>
      have hc := hlater (.inr (.inl ⟨rate, pos, rfl⟩))
      exact ⟨hc, hclk (by simp [hc]) nofun nofun nofun nofun, h.dispatcher.setup_ok rate pos hk⟩
    | startBegin =>
      have hc := hlater (.inr (.inr (.inl rfl)))
      exact ⟨hc, hclk (by simp [hc]) nofun nofun nofun nofun⟩
    | startWait ws0 left =>
      exact ⟨hlater (.inr (.inr (.inr ⟨ws0, left, rfl⟩))), h.dispatcher.wait_armed ws0 left hk⟩
    | fail e => trivial
  · have hfits := (engineInv_iff s).1 h.engine
    simpa [State.txn?, hfg, hk] using hfits

/-- Step (a): the stream is still armed, and only the bus changes (R184). -/
theorem inv_correct_next {s t : State} {c : CodecRun} {k : RecoveryProc} (h : Inv s)
    (hk : s.dispProc = some (.correct c)) (hbus : OnlyBus s t) (hfits : RecoveryFits s k) (heng : EngineFits t k.txn?)
    (hpart : (∃ c', k = .correct c') ∨ k = .teardown ∨ ∃ e, k = .fail e) : Inv (continueRecovery k t) := by
  have hrec := (h.recoveryAt hk).recovering.of_frame hbus.frame
  obtain ⟨sr, x, tr, rfl⟩ := hbus
  have hat : RecoveryAt k { s with cbSr := sr, cbWait := x, cbTrace := tr } := by
    refine ⟨hrec, ?_, heng⟩
    rcases hpart with ⟨c', rfl⟩ | rfl | ⟨e, rfl⟩ <;> exact hfits
  refine hat.inv h.params_valid { h.runState with } { h.stream with armed_when := fun _ => ?_ } { h.memory with }
  rcases hpart with ⟨c', rfl⟩ | rfl | ⟨e, rfl⟩
  · exact .inr (.inr (.inl ⟨c', rfl⟩))
  · exact .inr (.inr (.inr (.inl rfl)))
  · exact .inr (.inr (.inr (.inr (.inr ⟨e, rfl⟩))))

theorem inv_settleCorrect {s : State} {c : CodecRun} {r : ProcResult CodecRun} (h : Inv s)
    (hk : s.dispProc = some (.correct c)) (hbus : OnlyBus s r.state) (heng : CodecFits r) :
    Inv (settleCorrect r) := by
  have hfits := (h.recoveryAt hk).fits
  cases r with
  | going c' t => exact inv_correct_next h hk hbus hfits heng (.inl ⟨c', rfl⟩)
  | done t => exact inv_correct_next h hk hbus hfits heng (.inr (.inl rfl))
  | failed e t => exact inv_correct_next h hk hbus trivial heng (.inr (.inr ⟨e, rfl⟩))

/-- Step (b) (R185). -/
theorem inv_recoveryTeardown {s : State} (h : Inv s) (hk : s.dispProc = some .teardown) :
    Inv (continueRecovery .setupBegin (recoveryTeardown s)) := by
  obtain ⟨hrec, ⟨-, hvalid⟩, heng⟩ := h.recoveryAt hk
  have hoff : Offline (recoveryTeardown s) := { h.offline_doDisable with memory := { h.memory with } }
  have hrec' : Recovering (recoveryTeardown s) := { hrec.of_frame (doDisable_frame s) with }
  exact RecoveryAt.inv_of_offline ⟨hrec', ⟨if_pos hvalid, rfl⟩, heng⟩ hoff (.inl rfl)

theorem inv_settleRecoverySetup {s : State} {rate : BitVec 24} {r : ProcResult SetupPos} (hrec : Recovering s)
    (hframe : ProcFrame s r.state) (h : SetupSound rate .configured r) : Inv (settleRecoverySetup rate r) := by
  cases r with
  | going pos t =>
    obtain ⟨⟨hoff, hclk, hpos, heng⟩, hc⟩ := h
    exact RecoveryAt.inv_of_offline ⟨hrec.of_frame hframe, ⟨hc, hclk, hpos⟩, heng⟩ hoff (.inl hclk)
  | done t =>
    obtain ⟨hstopped, hc⟩ := h
    exact RecoveryAt.inv_of_offline ⟨hrec.of_frame hframe, ⟨hc, hstopped.clocks_off⟩, hstopped.engine_idle⟩
      hstopped.offline (.inl hstopped.clocks_off)
  | failed e t => exact h.inv_recoveryFails (hrec.of_frame hframe) e

/-- The stream runs again: the callback that is owed begins, or DISP returns (R187, R188). -/
theorem StartReady.inv_recoverySucceed {s : State} (h : StartReady s) (hrec : Recovering s) :
    Inv (recoverySucceed (openStream s)) := by
  have hinit := h.offline.armed_valid h.clocks_on
  unfold recoverySucceed
  dsimp only
  split
  · refine inv_of_running h.offline.params_valid hrec.fg_idle ?_ rfl
      { h.openStream_runStateInv with pending_running := nofun, lines_need := fun _ => .inl rfl }
      { h.openStream_streamInv with armed_when := fun _ => .inl rfl } h.engine_idle { h.offline.memory with }
    exact {
      proc_iff := by simp
      recovering_iff := by simp
      setup_ok := nofun
      armed_part := nofun
      later_part := nofun
      wait_armed := nofun
      active_init := fun _ => hinit
      callback_state := fun _ => rfl }
  · exact inv_of_running h.offline.params_valid hrec.fg_idle (.of_idle rfl rfl nofun) rfl
      { h.openStream_runStateInv with pending_running := nofun, lines_need := fun _ => .inl rfl }
      { h.openStream_streamInv with armed_when := fun _ => .inl rfl } h.engine_idle { h.offline.memory with }

theorem inv_settleRecoveryStart {r : ProcResult (Bool × Nat)} (hrec : Recovering r.state) (h : StartSound r) :
    Inv (settleRecoveryStart r) := by
  cases r with
  | going pos t =>
    exact RecoveryAt.inv_of_offline ⟨hrec, ⟨h.configured, h.clocks_on⟩, h.engine_idle⟩ h.offline
      (.inr (.inl ⟨pos.1, pos.2, rfl⟩))
  | done t =>
    obtain ⟨s, hs, rfl⟩ := h
    exact hs.inv_recoverySucceed ⟨hrec.fg_idle, hrec.phase, hrec.recovering, hrec.bufs_init⟩
  | failed e t => exact h.inv_recoveryFails hrec e

/-- The failure path (R189). -/
theorem inv_recoveryFail {s : State} {e : ErrCode} (h : Inv s) (hrec : Recovering s) (heng : EngineFits s none) :
    Inv (recoveryFail e s) := by
  refine Stopped.inv ⟨?_, rfl, heng⟩ ⟨rfl, rfl, nofun⟩ hrec.fg_idle.1 hrec.fg_idle.2
  exact { h.offline_doDisable with
    not_running := nofun
    not_pending := nofun
    uninitialized_iff := fun hne => absurd rfl hne
    memory := { h.memory with } }

theorem recoveryStepAt_inv {s : State} {k : RecoveryProc} (h : Inv s) (hk : s.dispProc = some k) :
    Inv (recoveryStepAt k s) := by
  obtain ⟨hrec, hfits, heng⟩ := h.recoveryAt hk
  have hoff : s.runState = .configured → Offline s := fun hc => h.offline (by simp [hc]) (by simp [hc])
  cases k with
  | correct c => exact inv_settleCorrect h hk (codecStep_onlyBus c s) (codecStep_fits heng)
  | teardown => exact inv_recoveryTeardown h hk
  | setupBegin =>
    obtain ⟨hc, hclk⟩ := hfits
    have hsound := setupBegin_sound s.cfgRate ⟨hoff hc, hclk, heng⟩
    exact inv_settleRecoverySetup hrec (setupBegin_frame s.cfgRate s) (hc ▸ hsound)
  | setup rate pos =>
    obtain ⟨hc, hclk, hpos⟩ := hfits
    have hsound := setupStep_sound ⟨hoff hc, hclk, hpos, heng⟩
    exact inv_settleRecoverySetup hrec (setupStep_frame rate pos s) (hc ▸ hsound)
  | startBegin =>
    obtain ⟨hc, hclk⟩ := hfits
    have hsound := startBegin_sound ⟨hoff hc, hclk, heng⟩
    refine inv_settleRecoveryStart ?_ hsound
    rcases startBegin_cases s with ⟨-, e⟩ | ⟨-, e⟩ <;> rw [e]
    · exact ⟨hrec.fg_idle, hrec.phase, hrec.recovering, hrec.bufs_init⟩
    · exact hrec
  | startWait ws0 left =>
    obtain ⟨hc, hclk⟩ := hfits
    have hrec' := hrec.of_frame (startStep_frame ws0 left s)
    exact inv_settleRecoveryStart hrec' (startStep_sound ws0 left ⟨hoff hc, hclk, hc, heng⟩)
  | fail e => exact inv_recoveryFail h hrec heng

theorem recoveryStep_inv {s : State} (h : Inv s) : Inv (recoveryStep s) := by
  unfold recoveryStep
  split
  next k hk => exact recoveryStepAt_inv h hk
  next => exact h

end Sys2Proof.Machine

/-! PROOFS. The steps of the handlers, the callback, the DMA channels and the environment; then every step keeps the
invariant (R14, R141, R143, R165, R172, R177, R181). -/

namespace Sys2Proof.Machine

/-! ### The handlers -/

/-- Everything DISP's entry can do up to the handoff: flags cleared, the half chosen and latched, and each error counted
at most once (R161 to R164). -/
theorem dispHandoff_cases (s : State) :
    ∃ fl te dme rh db, (te = s.teCount ∨ te = satInc s.teCount) ∧ (dme = s.dmeCount ∨ dme = satInc s.dmeCount)
      ∧ dispHandoff s = { s with
          rxFlags := fl, teCount := te, dmeCount := dme, readyHalf := rh, dispBlock := db, dispHalf := rh } := by
  have hte : ∃ fl te, (te = s.teCount ∨ te = satInc s.teCount)
      ∧ takeRxTe { s with dispBlock := false } = { s with dispBlock := false, rxFlags := fl, teCount := te } := by
    unfold takeRxTe
    split
    · exact ⟨_, _, .inr rfl, rfl⟩
    · exact ⟨_, _, .inl rfl, rfl⟩
  have hdme (u : State) : ∃ fl dme, (dme = u.dmeCount ∨ dme = satInc u.dmeCount)
      ∧ takeRxDme u = { u with rxFlags := fl, dmeCount := dme } := by
    unfold takeRxDme
    split
    · exact ⟨_, _, .inr rfl, rfl⟩
    · exact ⟨_, _, .inl rfl, rfl⟩
  have htc (u : State) : ∃ fl rh db, takeRxTc u = { u with rxFlags := fl, readyHalf := rh, dispBlock := db } := by
    unfold takeRxTc
    split <;> exact ⟨_, _, _, rfl⟩
  have hht (u : State) : ∃ fl rh db, takeRxHt u = { u with rxFlags := fl, readyHalf := rh, dispBlock := db } := by
    unfold takeRxHt
    split <;> exact ⟨_, _, _, rfl⟩
  obtain ⟨fl₁, te, hte, e₁⟩ := hte
  obtain ⟨fl₂, dme, hdme, e₂⟩ := hdme { s with dispBlock := false, rxFlags := fl₁, teCount := te }
  obtain ⟨fl₃, rh₃, db₃, e₃⟩ :=
    htc { s with dispBlock := false, rxFlags := fl₂, teCount := te, dmeCount := dme }
  obtain ⟨fl₄, rh₄, db₄, e₄⟩ :=
    hht { s with dispBlock := db₃, rxFlags := fl₃, teCount := te, dmeCount := dme, readyHalf := rh₃ }
  refine ⟨fl₄, te, dme, rh₄, db₄, hte, hdme, ?_⟩
  simp only [dispHandoff, e₁, e₂, e₃, e₄]

/-- Everything TXH can do: flags cleared, and each error counted at most once (R177). -/
theorem txh_cases (s : State) :
    ∃ fl te dme, (te = s.teCount ∨ te = satInc s.teCount) ∧ (dme = s.dmeCount ∨ dme = satInc s.dmeCount)
      ∧ txh s = { s with txFlags := fl, teCount := te, dmeCount := dme } := by
  unfold txh takeTxTe
  split <;> unfold takeTxDme <;> split
  · exact ⟨_, _, _, .inr rfl, .inr rfl, rfl⟩
  · exact ⟨_, _, _, .inr rfl, .inl rfl, rfl⟩
  · exact ⟨_, _, _, .inl rfl, .inr rfl, rfl⟩
  · exact ⟨_, _, _, .inl rfl, .inl rfl, rfl⟩

/-- An unmasked line, outside the recovery sequence, means a running block (R38, R134, R137). -/
theorem Inv.running_of_line {s : State} (h : Inv s) (hphase : s.dispPhase ≠ .recover)
    (hline : s.rxLineEn = true ∨ s.txLineEn = true ∨ s.feLineEn = true) : s.runState = .running := by
  have hany : s.rxLineEn = true ∨ s.txLineEn = true ∨ s.feLineEn = true ∨ s.extRxEn = true := by tauto
  exact (h.runState.lines_need hany).resolve_right fun hrec => hphase hrec.2

/-- While the block runs FG has no operation in progress (R229 (d)). -/
theorem Inv.fg_idle_of_running {s : State} (h : Inv s) (hrun : s.runState = .running) :
    s.fgBusy = false ∧ s.fgProc = none := by
  have hbusy : s.fgBusy = false := Bool.eq_false_iff.2 fun hb => (h.foreground.busy_alone hb).2 hrun
  exact ⟨hbusy, h.fgProc_eq_none hbusy⟩

theorem Inv.clocksOn_of_running {s : State} (h : Inv s) (hrun : s.runState = .running) : s.clocksOn = true :=
  (h.runState.running_enables hrun).2.1

theorem Inv.bufsInit_of_running {s : State} (h : Inv s) (hrun : s.runState = .running) : s.bufsInit = true :=
  h.stream.armed_valid (h.clocksOn_of_running hrun)

/-- What a requesting line says of a state that meets the invariant. -/
theorem Inv.running_of_irqRx {s : State} (h : Inv s) (hphase : s.dispPhase = .idle) (hirq : irqRx s = true) :
    s.runState = .running :=
  h.running_of_line (by simp [hphase]) <| .inl <| Bool.ne_false_iff.1 fun hmask => by simp [irqRx_masked hmask] at hirq

theorem Inv.running_of_irqFe {s : State} (h : Inv s) (hphase : s.dispPhase = .idle) (hirq : irqFe s = true) :
    s.runState = .running :=
  h.running_of_line (by simp [hphase]) <| .inr <| .inr <|
    Bool.ne_false_iff.1 fun hmask => by simp [irqFe_masked hmask] at hirq

section
variable (s : State)

theorem enabled_dispEntry_iff : enabled .dispEntry s = true ↔ s.dispPhase = .idle ∧ irqRx s = true := by
  rcases handlerToStart_cases s with ⟨e, hp | ⟨hrx, htx, hfe⟩⟩ | ⟨e, hp, hrx⟩ | ⟨e, hp, hrx, htx⟩
      | ⟨e, hp, hrx, htx, hfe⟩ <;> simp [enabled, *]

theorem enabled_txh_iff :
    enabled .txh s = true ↔ s.dispPhase = .idle ∧ irqRx s = false ∧ irqTx s = true := by
  rcases handlerToStart_cases s with ⟨e, hp | ⟨hrx, htx, hfe⟩⟩ | ⟨e, hp, hrx⟩ | ⟨e, hp, hrx, htx⟩
      | ⟨e, hp, hrx, htx, hfe⟩ <;> simp [enabled, *]

theorem enabled_feh_iff :
    enabled .feh s = true ↔ s.dispPhase = .idle ∧ irqRx s = false ∧ irqTx s = false ∧ irqFe s = true := by
  rcases handlerToStart_cases s with ⟨e, hp | ⟨hrx, htx, hfe⟩⟩ | ⟨e, hp, hrx⟩ | ⟨e, hp, hrx, htx⟩
      | ⟨e, hp, hrx, htx, hfe⟩ <;> simp [enabled, *]

end

theorem Inv.handoff {s : State} (h : Inv s) (hrun : s.runState = .running) : Inv (dispHandoff s) := by
  obtain ⟨fl, te, dme, rh, db, -, -, e⟩ := dispHandoff_cases s
  have hflags : Inv { s with rxFlags := fl } :=
    ⟨h.params_valid, { h.foreground with }, { h.dispatcher with }, { h.runState with },
      { h.stream with rx_flags_armed := fun _ => h.clocksOn_of_running hrun }, { h.engine with }, { h.memory with }⟩
  rw [e]
  exact hflags.of_view rfl

section
variable {s : State} (h : Inv s) (hrun : s.runState = .running) (hphase : s.dispPhase ≠ .recover)
include h hrun hphase

/-- DISP returns to an interrupted foreground (R223). -/
theorem inv_handlerReturn (hrec : s.recState ≠ .recovering) : Inv (handlerReturn s) :=
  inv_of_running h.params_valid (h.fg_idle_of_running hrun) (.of_idle rfl rfl hrec) rfl
    { h.runState with lines_need := fun _ => .inl hrun } { h.stream with armed_when := fun _ => .inl hrun }
    (h.engineFits_none (h.fg_idle_of_running hrun).1 hphase) { h.memory with }

theorem inv_invokeCallback (hrec : s.recState ≠ .recovering) : Inv (invokeCallback s) := by
  refine inv_of_running h.params_valid (h.fg_idle_of_running hrun) ?_ rfl
    { h.runState with lines_need := fun _ => .inl hrun } { h.stream with armed_when := fun _ => .inl hrun }
    (h.engineFits_none (h.fg_idle_of_running hrun).1 hphase) { h.memory with }
  exact {
    proc_iff := by simp
    recovering_iff := by simp [hrec]
    setup_ok := nofun
    armed_part := nofun
    later_part := nofun
    wait_armed := nofun
    active_init := fun _ => h.bufsInit_of_running hrun
    callback_state := fun _ => hrun }

/-- The pending flag is consumed: the first part of the sequence finds the stream armed (R183). -/
theorem inv_beginRecovery : Inv (beginRecovery s) := by
  have hvalid := (h.runState.running_enables hrun).1
  have heng := h.engineFits_none (h.fg_idle_of_running hrun).1 hphase
  have hrec : Recovering (beginRecovery s) :=
    ⟨h.fg_idle_of_running hrun, rfl, rfl, h.bufsInit_of_running hrun⟩
  have hstate : RunStateInv (beginRecovery s) :=
    { h.runState with
      uninitialized_iff := fun hne => absurd rfl hne
      pending_running := nofun
      running_enables := nofun
      lines_need := fun _ => .inr ⟨rfl, rfl⟩ }
  change Inv (continueRecovery (recoveryStart s.params) (beginRecovery s))
  unfold recoveryStart
  cases hc : beginCodec s.params s.params.cfeSeq with
  | none =>
    exact RecoveryAt.inv ⟨hrec, ⟨rfl, hvalid⟩, heng⟩ h.params_valid hstate
      { h.stream with armed_when := fun _ => .inr (.inr (.inr (.inl rfl))) } { h.memory with }
  | some c =>
    exact RecoveryAt.inv ⟨hrec, ⟨rfl, hvalid⟩, engineFits_beginCodec hc heng.1⟩ h.params_valid hstate
      { h.stream with armed_when := fun _ => .inr (.inr (.inl ⟨c, rfl⟩)) } { h.memory with }

end

theorem Inv.recState_ne_recovering {s : State} (h : Inv s) (hphase : s.dispPhase ≠ .recover) :
    s.recState ≠ .recovering := fun hrec => hphase (h.dispatcher.recovering_iff.1 hrec)

theorem dispEntry_inv {s : State} (h : Inv s) (hen : enabled .dispEntry s = true) : Inv (dispEntry s) := by
  obtain ⟨hphase, hirq⟩ := (enabled_dispEntry_iff s).1 hen
  have hrun := h.running_of_irqRx hphase hirq
  have hhand := h.handoff hrun
  have hkeep : (dispHandoff s).runState = s.runState ∧ (dispHandoff s).dispPhase = s.dispPhase := by
    obtain ⟨fl, te, dme, rh, db, -, -, e⟩ := dispHandoff_cases s
    rw [e]
    exact ⟨rfl, rfl⟩
  have hrun' := hkeep.1.trans hrun
  have hphase' : (dispHandoff s).dispPhase ≠ .recover := by simp [hkeep.2, hphase]
  have hrec := hhand.recState_ne_recovering hphase'
  rcases dispEntry_cases s with ⟨-, e⟩ | ⟨-, -, e⟩ | ⟨-, -, e⟩ <;> rw [e]
  · exact inv_beginRecovery hhand hrun' hphase'
  · exact inv_invokeCallback hhand hrun' hphase' hrec
  · exact inv_handlerReturn hhand hrun' hphase' hrec

theorem dispExit_inv {s : State} (h : Inv s) (hphase : s.dispPhase = .callback) : Inv (dispExit s) := by
  have hrun := h.dispatcher.callback_state hphase
  have hne : s.dispPhase ≠ .recover := by simp [hphase]
  have hsample : Inv { s with lastProgress := s.rxProgress } :=
    ⟨h.params_valid, { h.foreground with }, { h.dispatcher with }, { h.runState with },
      { h.stream with sample_le := Nat.le_refl _ }, { h.engine with }, { h.memory with }⟩
  have hreturn := inv_handlerReturn hsample hrun hne (h.recState_ne_recovering hne)
  unfold dispExit
  dsimp only
  split
  · exact hreturn.of_view rfl
  · exact hreturn.of_view rfl

/-- TXH's flags could only be set with the clocks on, and clearing them leaves none that was not set (R177). -/
theorem txh_inv {s : State} (h : Inv s) (hclk : s.clocksOn = true) : Inv (txh s) := by
  obtain ⟨fl, te, dme, -, -, e⟩ := txh_cases s
  have hflags : Inv { s with txFlags := fl } :=
    ⟨h.params_valid, { h.foreground with }, { h.dispatcher with }, { h.runState with },
      { h.stream with tx_flags_armed := fun _ => hclk }, { h.engine with }, { h.memory with }⟩
  rw [e]
  exact hflags.of_view rfl

theorem clocksOn_of_irqTx {s : State} (h : Inv s) (hirq : irqTx s = true) : s.clocksOn = true :=
  h.stream.tx_flags_armed fun hnone => by simp [irqTx, hnone] at hirq

theorem feh_inv {s : State} (h : Inv s) (hphase : s.dispPhase = .idle) (hrun : s.runState = .running) :
    Inv (feh s) := by
  have hd := h.dispIdle hphase
  refine ⟨h.params_valid, { h.foreground with }, .of_idle hphase hd.proc ?_,
    { h.runState with pending_running := fun _ => hrun }, { h.stream with fe_gated := nofun }, { h.engine with },
    { h.memory with }⟩
  simp only [feh_recState]
  split
  · nofun
  · exact hd.not_recovering

/-! ### Item accesses -/

/-- The address of an item and the one after it are bytes of the buffers (R60, R63). -/
theorem inBuffers_of_isItemAddr {p : Params} {a : Nat} (h : isItemAddr p a = true) :
    inBuffers p a ∧ inBuffers p (a + 1) := by
  simp only [inBuffers, Params.dbufBytesRx, Params.dbufBytesTx, Config.itemBytes]
  rcases (isItemAddr_iff p a).1 h with ⟨i, hi, rfl⟩ | ⟨i, hi, rfl⟩
  · simp only [rxItemAddr]
    omega
  · simp only [txItemAddr]
    omega

/-- Storing an item keeps memory in order (R64). -/
theorem writeItem_memoryInv {s : State} {a : Nat} (w : Item) (h : MemoryInv s) (ha : isItemAddr s.params a = true) :
    MemoryInv { s with mem := s.mem.writeItem a w } where
  canonical := Memory.writeItem_wf a w h.canonical
  inside c hc := by
    obtain ⟨hlow, hhigh⟩ := inBuffers_of_isItemAddr ha
    rcases Memory.mem_writeItem hc with hc | hc | hc
    · exact hc ▸ hlow
    · exact hc ▸ hhigh
    · exact h.inside c hc
  written hinit x hx := by
    simp only [Memory.byteAt_writeItem]
    split_ifs
    · rfl
    · rfl
    · exact h.written hinit x hx

theorem Inv.writeItem {s : State} {a : Nat} (w : Item) (h : Inv s) (ha : isItemAddr s.params a = true) :
    Inv { s with mem := s.mem.writeItem a w } :=
  ⟨h.params_valid, { h.foreground with }, { h.dispatcher with }, { h.runState with }, { h.stream with },
    { h.engine with }, writeItem_memoryInv w h.memory ha⟩

/-- The remaining-transfer count that falls by one, and reloads at 0, stays the residue of the progress (R141, R143). -/
theorem residue_step {n k : Nat} {c : BitVec 16} (hn : 0 < n) (hle : n ≤ 65535) (hc : c.toNat = n - k % n) :
    (if c - 1 = 0 then BitVec.ofNat 16 n else c - 1).toNat = n - (k + 1) % n := by
  have hr : k % n < n := Nat.mod_lt k hn
  have hfall : (c - 1).toNat = c.toNat - 1 := BitVec.toNat_sub_of_le (BitVec.le_def.2 (hc ▸ Nat.sub_pos_of_lt hr))
  have hzero : c - 1 = 0 ↔ k % n + 1 = n := by
    rw [← BitVec.toNat_inj, hfall, hc]
    simp only [BitVec.ofNat_eq_ofNat, BitVec.toNat_ofNat, Nat.zero_mod]
    omega
  rw [← Nat.mod_add_mod]
  split
  next hz =>
    rw [hzero.1 hz, Nat.mod_self, BitVec.toNat_ofNat]
    exact Nat.mod_eq_of_lt (Nat.lt_succ_of_le hle)
  next hz =>
    have hlt : k % n + 1 < n := Nat.lt_of_le_of_ne hr (mt hzero.2 hz)
    rw [hfall, hc, Nat.mod_eq_of_lt hlt]
    omega

theorem rxAdvance_inv {s : State} (h : Inv s) (hclk : s.clocksOn = true) : Inv (rxAdvance s) := by
  have hle : s.params.nRx ≤ 65535 := h.params_valid.2.1
  exact ⟨h.params_valid, { h.foreground with }, { h.dispatcher with }, { h.runState with },
    { h.stream with
      rx_residue := fun _ => residue_step (nRx_pos h.params_valid) hle (h.stream.rx_residue hclk)
      sample_le := Nat.le_succ_of_le h.stream.sample_le
      rx_flags_armed := fun _ => hclk },
    { h.engine with }, { h.memory with }⟩

theorem txAdvance_inv {s : State} (h : Inv s) (hclk : s.clocksOn = true) : Inv (txAdvance s) := by
  have hle : s.params.nTx ≤ 65535 := h.params_valid.2.2.1
  exact ⟨h.params_valid, { h.foreground with }, { h.dispatcher with }, { h.runState with },
    { h.stream with tx_residue := fun _ => residue_step (nTx_pos h.params_valid) hle (h.stream.tx_residue hclk) },
    { h.engine with }, { h.memory with }⟩

theorem clocksOn_of_dmaRxEnabled {s : State} (h : dmaRxEnabled s = true) : s.clocksOn = true := by
  simp only [dmaRxEnabled, Bool.and_eq_true] at h
  exact h.2

theorem clocksOn_of_dmaTxEnabled {s : State} (h : dmaTxEnabled s = true) : s.clocksOn = true := by
  simp only [dmaTxEnabled, Bool.and_eq_true] at h
  exact h.2

theorem dmaRxItem_inv {s t : State} {w : Item} (h : Inv s) (hen : dmaRxEnabled s = true)
    (ht : dmaRxItem w s = .next t) : Inv t := by
  have hclk := clocksOn_of_dmaRxEnabled hen
  rcases dmaRxItem_cases w s with ⟨ha, e⟩ | ⟨-, e⟩ <;> rw [e] at ht <;> cases ht
  exact (rxAdvance_inv (h.writeItem w ha) hclk).of_view rfl

theorem dmaTxItem_inv {s t : State} (h : Inv s) (hen : dmaTxEnabled s = true) (ht : dmaTxItem s = .next t) :
    Inv t := by
  have hclk := clocksOn_of_dmaTxEnabled hen
  rcases dmaTxItem_cases s with ⟨w, -, e⟩ | ⟨f, -, e⟩ <;> rw [e] at ht <;> cases ht
  exact (txAdvance_inv h hclk).of_view rfl

theorem cbReadStep_inv {s t : State} {i : Nat} (h : Inv s) (ht : cbReadStep i s = .next t) : Inv t := by
  rcases cbReadStep_cases i s with ⟨w, -, e⟩ | ⟨f, -, e⟩ <;> rw [e] at ht <;> cases ht
  exact h

theorem cbWriteStep_inv {s t : State} {i : Nat} {w : Item} (h : Inv s) (ht : cbWriteStep i w s = .next t) : Inv t := by
  rcases cbWriteStep_cases i w s with ⟨ha, e⟩ | ⟨-, e⟩ <;> rw [e] at ht <;> cases ht
  exact h.writeItem w ha

/-! ### The environment -/

theorem cbAckEnabled_iff (s : State) : cbAckEnabled s = true ↔ ∃ x, s.cbWait = some x ∧ cbFlag s.cbSr x = false := by
  unfold cbAckEnabled
  cases s.cbWait <;> simp

theorem cbAck_of_wait {s : State} {x : CbPhase} (b : Byte) (hx : s.cbWait = some x) :
    cbAck b s = { s with cbSr := cbFlagSet s.cbSr x, cbRxByte := if x = .rxd then b else s.cbRxByte } := by
  simp only [cbAck, hx]

/-- The device answers a transaction in progress, which goes on waiting for the same phase (R116). -/
theorem cbAck_inv {s : State} {b : Byte} (h : Inv s) (hen : cbAckEnabled s = true) : Inv (cbAck b s) := by
  obtain ⟨x, hx, -⟩ := (cbAckEnabled_iff s).1 hen
  have hsr : Inv { s with cbSr := cbFlagSet s.cbSr x } :=
    ⟨h.params_valid, { h.foreground with }, { h.dispatcher with }, { h.runState with }, { h.stream with },
      { h.engine with idle_clear := fun hnone => absurd ((h.engine.idle_clear hnone).1.symm.trans hx) nofun },
      { h.memory with }⟩
  rw [cbAck_of_wait b hx]
  exact hsr.of_view rfl

theorem frameError_inv {s : State} (h : Inv s) (hen : frameErrorEnabled s = true) : Inv (frameError s) := by
  simp only [frameErrorEnabled, Bool.and_eq_true] at hen
  exact ⟨h.params_valid, { h.foreground with }, { h.dispatcher with }, { h.runState with },
    { h.stream with fe_gated := fun _ => hen.1 }, { h.engine with }, { h.memory with }⟩

theorem dmaError_inv {s : State} {ch : Channel} (kind : DmaErrorKind) (h : Inv s) (hen : dmaErrorEnabled ch s = true) :
    Inv (dmaError ch kind s) := by
  have hclk : s.clocksOn = true := by
    cases ch <;> simp only [dmaErrorEnabled, Bool.and_eq_true] at hen <;> exact hen.2
  have hrx (fl : RxCauses) : Inv { s with rxFlags := fl } :=
    ⟨h.params_valid, { h.foreground with }, { h.dispatcher with }, { h.runState with },
      { h.stream with rx_flags_armed := fun _ => hclk }, { h.engine with }, { h.memory with }⟩
  have htx (fl : TxCauses) : Inv { s with txFlags := fl } :=
    ⟨h.params_valid, { h.foreground with }, { h.dispatcher with }, { h.runState with },
      { h.stream with tx_flags_armed := fun _ => hclk }, { h.engine with }, { h.memory with }⟩
  cases ch with
  | rx => cases kind <;> exact hrx _
  | tx => cases kind <;> exact htx _

/-! ### One step -/

theorem act_inv {m : Move} {s t : State} (h : Inv s) (hen : enabled m s = true) (ht : act m s = .next t) : Inv t := by
  cases m with
  | command w => exact accept_inv h hen ht
  | fg =>
    cases ht
    exact fgStep_inv h
  | dispEntry =>
    cases ht
    exact dispEntry_inv h hen
  | disp =>
    cases ht
    exact recoveryStep_inv h
  | dispExit =>
    cases ht
    exact dispExit_inv h (of_decide_eq_true hen)
  | cbRead i => exact cbReadStep_inv h ht
  | cbWrite i w => exact cbWriteStep_inv h ht
  | txh =>
    cases ht
    obtain ⟨-, -, hirq⟩ := (enabled_txh_iff s).1 hen
    exact txh_inv h (clocksOn_of_irqTx h hirq)
  | feh =>
    cases ht
    obtain ⟨hphase, -, -, hirq⟩ := (enabled_feh_iff s).1 hen
    exact feh_inv h hphase (h.running_of_irqFe hphase hirq)
  | dmaRx w => exact dmaRxItem_inv h hen ht
  | dmaTx => exact dmaTxItem_inv h hen ht
  | pllLock =>
    cases ht
    exact h.of_view rfl
  | cbAck b =>
    cases ht
    exact cbAck_inv h hen
  | wsToggle =>
    cases ht
    exact h.of_view rfl
  | frameError =>
    cases ht
    exact frameError_inv h hen
  | dmaError ch kind =>
    cases ht
    exact dmaError_inv kind h hen

theorem take_inv {m : Move} {s t : State} (h : Inv s) (ht : take m s = .next t) : Inv t := by
  rcases take_cases m s with ⟨hen, e⟩ | ⟨-, e⟩ <;> rw [e] at ht
  · exact act_inv h hen ht
  · cases ht
    exact h

theorem afterChoice_inv {s : State} (h : Inv s) : Inv (afterChoice s) := by
  unfold afterChoice
  split
  · exact h.of_view rfl
  · exact h.of_view rfl

/-- Settles O36: the choice of the next move changes nothing the invariant reads, and every agent's step keeps it. -/
theorem everyStepKeepsInvariant : Obligations.EveryStepKeepsInvariant :=
  fun _ _ h ht => take_inv (afterChoice_inv h) ht

end Sys2Proof.Machine

/-! PROOFS. Who steps, and what FG reads: the acceptance of a command, the request lines and the handlers' order, the
control-bus acknowledge, and the status words made of bits (R38, R39, R45, R80, R116, R203, R204, R222 to R229). -/

namespace Sys2Proof.Machine

/-! ### The acceptance of a command -/

/-- Settles O7: the move at the head of `inputs` is the one taken. -/
theorem stepRunsDecodedCommand : Obligations.StepRunsDecodedCommand := by
  intro s w i rest hin hacc hdec
  have hen : enabled (.command w) { s with inputs := rest } = true := hacc
  rw [step_eq_of_cons hin, take, if_pos hen]
  simp only [act, accept, hdec]

/-- Settles O9: a command that is not accepted is a move that is not enabled. -/
theorem unacceptedCommandChangesNothing : Obligations.UnacceptedCommandChangesNothing := by
  intro s w rest
  refine ⟨acceptsCommand_iff s, fun hin hacc => ?_⟩
  have hen : enabled (.command w) { s with inputs := rest } = false := hacc
  rw [step_eq_of_cons hin, take, hen]
  exact if_neg Bool.false_ne_true

/-! ### One processor -/

section
variable (s : State)

theorem irqRx_iff :
    irqRx s = true ↔ s.rxLineEn = true ∧ ((s.rxFlags.ht = true ∧ s.rxIrqEn.ht = true)
      ∨ (s.rxFlags.tc = true ∧ s.rxIrqEn.tc = true) ∨ (s.rxFlags.te = true ∧ s.rxIrqEn.te = true)
      ∨ (s.rxFlags.dme = true ∧ s.rxIrqEn.dme = true)) := by
  simp only [irqRx, Bool.and_eq_true, Bool.or_eq_true, or_assoc]

theorem irqTx_iff :
    irqTx s = true ↔ s.txLineEn = true ∧ ((s.txFlags.te = true ∧ s.txIrqEn.te = true)
      ∨ (s.txFlags.dme = true ∧ s.txIrqEn.dme = true)) := by
  simp only [irqTx, Bool.and_eq_true, Bool.or_eq_true]

theorem irqFe_iff : irqFe s = true ↔ s.feLineEn = true ∧ s.feStatus = true := by
  simp only [irqFe, Bool.and_eq_true]

theorem enabled_fg_iff :
    enabled .fg s = true ↔
      s.fgBusy = true ∧ s.dispPhase = .idle ∧ irqRx s = false ∧ irqTx s = false ∧ irqFe s = false := by
  simp only [enabled, Bool.and_eq_true, fgMayStep_iff]

end

/-- An operation in progress is never kept waiting and never interrupted: every line is masked (R229 (d)). -/
theorem Inv.fg_uninterrupted {s : State} (h : Inv s) (hbusy : s.fgBusy = true) :
    enabled .fg s = true ∧ handlerToStart s = none := by
  obtain ⟨hphase, -⟩ := h.foreground.busy_alone hbusy
  obtain ⟨hrx, htx, hfe⟩ := h.foreground.busy_masked hbusy
  refine ⟨(enabled_fg_iff s).2 ⟨hbusy, hphase, irqRx_masked hrx, irqTx_masked htx, irqFe_masked hfe⟩, ?_⟩
  simp [handlerToStart, irqRx_masked hrx, irqTx_masked htx, irqFe_masked hfe]

/-- Settles O51, line by line and move by move. -/
theorem oneProcessor : Obligations.OneProcessor := by
  intro s
  exact ⟨irqRx_iff s, irqTx_iff s, irqFe_iff s, enabled_dispEntry_iff s, enabled_txh_iff s, enabled_feh_iff s,
    decide_eq_true_iff, decide_eq_true_iff, enabled_fg_iff s, Inv.fg_uninterrupted⟩

/-! ### The control-bus acknowledge -/

/-- Setting the flag of a phase sets that bit of `CB_SR` and keeps every other (R39, R116). -/
theorem getLsbD_cbFlagSet (sr : BitVec 5) (x : CbPhase) {n : Nat} (hn : n < 5) :
    (cbFlagSet sr x).getLsbD n = (sr.getLsbD n || decide (n = flagBit x)) := by
  have hbit : flagBit x < 5 := by cases x <;> decide
  have hone : (1#5 <<< flagBit x).getLsbD n = decide (n = flagBit x) := by
    rw [BitVec.getLsbD_shiftLeft, BitVec.getLsbD_one]
    by_cases hlt : n < flagBit x
    · simp [hlt, Nat.ne_of_lt hlt]
    · have hzero : n - flagBit x = 0 ↔ n = flagBit x := by omega
      simp [hn, hlt, hzero]
  rw [cbFlagSet, BitVec.getLsbD_or, hone]

theorem take_of_disabled {m : Move} {s : State} (h : enabled m s = false) : take m s = .next s := by
  rw [take, h]
  exact if_neg Bool.false_ne_true

theorem take_of_enabled {m : Move} {s : State} (h : enabled m s = true) : take m s = act m s := if_pos h

/-- Settles O55, by whether a phase is waited for and its flag is set. -/
theorem controlBusAcknowledge : Obligations.ControlBusAcknowledge := by
  intro s b
  refine ⟨cbAckEnabled_iff s, fun hwait => take_of_disabled ?_, fun x hx => ⟨fun hflag => take_of_disabled ?_, ?_⟩⟩
  · simp [enabled, cbAckEnabled, hwait]
  · simp [enabled, cbAckEnabled, hx, hflag]
  · intro hflag
    refine ⟨cbFlagSet s.cbSr x, ?_, fun n hn => ?_⟩
    · have hen : enabled (.cbAck b) s = true := (cbAckEnabled_iff s).2 ⟨x, hx, hflag⟩
      rw [take_of_enabled hen, act, cbAck_of_wait b hx]
    · rw [getLsbD_cbFlagSet s.cbSr x hn]
      cases x <;> rfl

/-! ### Status words -/

theorem testBit_bitsValue (bs : List Bool) (n : Nat) : (bitsValue bs).testBit n = bs.getD n false := by
  induction bs generalizing n with
  | nil => simp [bitsValue]
  | cons b bs ih =>
    have hsplit : bitsValue (b :: bs) = Nat.bit b (bitsValue bs) := by
      rw [Nat.bit_val, bitsValue, Nat.add_comm]
    rw [hsplit]
    cases n with
    | zero => simp
    | succ n => simp [Nat.testBit_bit_succ, ih]

/-- A packed word holds the listed bits in their places, and zeros (R204). -/
theorem getLsbD_packBits {bs : List Bool} (h : bs.length ≤ 32) (n : Nat) :
    (packBits bs).getLsbD n = bs.getD n false := by
  rw [packBits, BitVec.getLsbD_ofNat, testBit_bitsValue]
  by_cases hn : n < 32
  · simp [hn]
  · simp [hn, List.getElem?_eq_none (h.trans (Nat.le_of_not_lt hn))]

/-- GET_STATUS answers the selected word and changes nothing but the response (R203). -/
theorem exec_getStatus (sel : BitVec 4) (s : State) :
    exec (.getStatus sel) s = .next (succeed (statusWord s (StatusName.ofSelector sel)) s) := rfl

/-- Settles O29, selector by selector: each is a packed word. -/
theorem getStatusBits : Obligations.GetStatusBits := by
  intro s e he
  simp only [List.mem_cons, List.not_mem_nil, or_false] at he
  rcases he with rfl | rfl | rfl | rfl
  · exact ⟨faultFlagsWord s, rfl, getLsbD_packBits (by simp)⟩
  · exact ⟨enablesWord s, rfl, getLsbD_packBits (by simp)⟩
  · exact ⟨rxFlagsWord s, rfl, getLsbD_packBits (by simp)⟩
  · exact ⟨txFlagsWord s, rfl, getLsbD_packBits (by simp)⟩

/-- What a GET_STATUS leaves in `rsp_data`. -/
theorem rspData_of_getStatus (n : StatusName) {sel : BitVec 4} {s t : State} (hsel : StatusName.ofSelector sel = n)
    (h : exec (.getStatus sel) s = .next t) : t.rspData = statusWord s n := by
  rw [exec_getStatus, hsel] at h
  cases h
  rfl

/-- Outside the recovery sequence an unmasked line means every cause is enabled (R31, R33, R132). -/
theorem Inv.irqEn_of_line {s : State} (h : Inv s) (hphase : s.dispPhase ≠ .recover)
    (hline : s.rxLineEn = true ∨ s.txLineEn = true ∨ s.feLineEn = true) :
    s.rxIrqEn = ⟨true, true, true, true⟩ ∧ s.txIrqEn = ⟨true, true⟩ := by
  have hrun := h.running_of_line hphase hline
  exact (h.runState.valid_config (h.runState.running_enables hrun).1).2.2

section
variable {s : State} (h : Inv s) (hphase : s.dispPhase ≠ .recover)
include h hphase

theorem Inv.rxFlags_of_quiet (hline : s.rxLineEn = true) (hirq : irqRx s = false) :
    s.rxFlags = ⟨false, false, false, false⟩ := by
  have hen := (h.irqEn_of_line hphase (.inl hline)).1
  cases hfl : s.rxFlags with
  | mk ht tc te dme => simpa [irqRx, hline, hen, hfl, and_assoc] using hirq

theorem Inv.txFlags_of_quiet (hline : s.txLineEn = true) (hirq : irqTx s = false) : s.txFlags = ⟨false, false⟩ := by
  have hen := (h.irqEn_of_line hphase (.inr (.inl hline))).2
  cases hfl : s.txFlags with
  | mk te dme => simpa [irqTx, hline, hen, hfl] using hirq

end

/-- Settles O30: where FG may step no unmasked line requests, and every cause of an unmasked line is enabled. -/
theorem getStatusConstrained : Obligations.GetStatusConstrained := by
  intro s t h hacc
  obtain ⟨-, hphase, hrx, htx, hfe⟩ := (acceptsCommand_iff s).1 hacc
  have hne : s.dispPhase ≠ .recover := by simp [hphase]
  refine ⟨fun hline ht n hn => ?_, fun hline ht => ?_, fun hline ht => ?_, fun ht => ?_⟩
  · have hword : t.rspData = rxFlagsWord s := rspData_of_getStatus .rxFlags rfl ht
    rw [hword, rxFlagsWord, getLsbD_packBits (by simp), h.rxFlags_of_quiet hne hline hrx]
    interval_cases n <;> rfl
  · have hword : t.rspData = txFlagsWord s := rspData_of_getStatus .txFlags rfl ht
    rw [hword, txFlagsWord, getLsbD_packBits (by simp), getLsbD_packBits (by simp),
      h.txFlags_of_quiet hne hline htx]
    exact ⟨rfl, rfl⟩
  · have hword : t.rspData = enablesWord s := rspData_of_getStatus .enables rfl ht
    have hclear : s.feStatus = false := by simpa [irqFe, hline] using hfe
    rw [hword, enablesWord, getLsbD_packBits (by simp)]
    exact hclear
  · have hword : t.rspData = recStateCode s.recState := rspData_of_getStatus .recState rfl ht
    have hrec := h.recState_ne_recovering hne
    rw [hword]
    cases hs : s.recState with
    | normal => exact .inl rfl
    | frameErrorPending => exact .inr rfl
    | recovering => exact absurd hs hrec

end Sys2Proof.Machine

/-! PROOFS. The items of the two channels: where they stand, what one step moves, and what a run of received words
leaves in the buffer (R52, R141 to R144, R175). -/

namespace Sys2Proof.Machine

/-! ### Indices -/

section
variable {s : State} (h : Inv s) (hclk : s.clocksOn = true)
include h hclk

/-- The next item to receive is the residue of the progress (R32, R52). -/
theorem Inv.rxIdx_eq : s.rxIdx = s.rxProgress % s.params.nRx := by
  have hlt : s.rxProgress % s.params.nRx < s.params.nRx := Nat.mod_lt _ (nRx_pos h.params_valid)
  rw [State.rxIdx, h.stream.rx_residue hclk]
  omega

theorem Inv.txIdx_eq : s.txIdx = s.txProgress % s.params.nTx := by
  have hlt : s.txProgress % s.params.nTx < s.params.nTx := Nat.mod_lt _ (nTx_pos h.params_valid)
  rw [State.txIdx, h.stream.tx_residue hclk]
  omega

theorem Inv.isItemAddr_rx : isItemAddr s.params (rxItemAddr s.params s.rxIdx) = true :=
  (isItemAddr_iff _ _).2 (.inl ⟨s.rxIdx, h.rxIdx_eq hclk ▸ Nat.mod_lt _ (nRx_pos h.params_valid), rfl⟩)

theorem Inv.isItemAddr_tx : isItemAddr s.params (txItemAddr s.params s.txIdx) = true :=
  (isItemAddr_iff _ _).2 (.inr ⟨s.txIdx, h.txIdx_eq hclk ▸ Nat.mod_lt _ (nTx_pos h.params_valid), rfl⟩)

end

/-- Once the buffers are initialised, every item can be read (R41, R63). -/
theorem Inv.itemAt_isSome {s : State} {a : Nat} (h : Inv s) (hinit : s.bufsInit = true)
    (ha : isItemAddr s.params a = true) : ∃ w, s.mem.itemAt a = some w := by
  obtain ⟨hlow, hhigh⟩ := inBuffers_of_isItemAddr ha
  obtain ⟨lo, hlo⟩ := Option.isSome_iff_exists.1 (h.memory.written hinit a hlow)
  obtain ⟨hi, hhi⟩ := Option.isSome_iff_exists.1 (h.memory.written hinit (a + 1) hhigh)
  exact ⟨hi ++ lo, by simp only [Memory.itemAt, hlo, hhi]⟩

/-! ### One item -/

/-- What an enabled DMA_RX step does (R141). -/
theorem take_dmaRx {s : State} (h : Inv s) (hen : dmaRxEnabled s = true) (w : Item) :
    take (.dmaRx w) s = .next (rxAdvance { s with
      mem := s.mem.writeItem (rxItemAddr s.params s.rxIdx) w, rxTrace := s.rxTrace ++ [w] }) := by
  have ha := h.isItemAddr_rx (clocksOn_of_dmaRxEnabled hen)
  rw [take, enabled, if_pos hen]
  rcases dmaRxItem_cases w s with ⟨-, e⟩ | ⟨hna, -⟩
  · exact e
  · simp [ha] at hna

/-- What an enabled DMA_TX step does (R143). -/
theorem take_dmaTx {s : State} {w : Item} (h : Inv s) (hen : dmaTxEnabled s = true)
    (hw : s.mem.itemAt (txItemAddr s.params s.txIdx) = some w) :
    take .dmaTx s = .next (txAdvance { s with txTrace := s.txTrace ++ [w] }) := by
  have ha := h.isItemAddr_tx (clocksOn_of_dmaTxEnabled hen)
  rw [take, enabled, if_pos hen]
  simp only [act, dmaTxItem, memRead, ha, hw, if_true]

theorem txAdvance_eq (s : State) :
    txAdvance s = { s with
      txProgress := s.txProgress + 1
      txNdtr := if s.txNdtr = 1 then BitVec.ofNat 16 s.params.nTx else s.txNdtr - 1 } := by
  simp only [txAdvance, sub_eq_zero]

/-- Settles O44: the item is written, since the clocks are on only over initialised buffers. -/
theorem transmitItemStep : Obligations.TransmitItemStep := by
  intro s h hen
  have hclk := clocksOn_of_dmaTxEnabled hen
  obtain ⟨w, hw⟩ := h.itemAt_isSome (h.stream.armed_valid hclk) (h.isItemAddr_tx hclk)
  exact ⟨w, hw, by rw [take_dmaTx h hen hw, txAdvance_eq]⟩

/-! ### The receive events -/

/-- An event falls at progress `e` of the first round, and it stays pending (R142). -/
theorem event_reached (k : Nat) {e n : Nat} (hle : e ≤ n) : (e ≤ k ∨ k % n + 1 = e) ↔ e ≤ k + 1 := by
  have hmod : k % n ≤ k := Nat.mod_le k n
  by_cases hk : k < n
  · rw [Nat.mod_eq_of_lt hk]
    omega
  · omega

section
variable {s : State} (h : Inv s) (hclk : s.clocksOn = true)
include h hclk

theorem Inv.rxNdtr_sub_one : (s.rxNdtr - 1).toNat = s.params.nRx - (s.rxProgress % s.params.nRx + 1) := by
  have hlt : s.rxProgress % s.params.nRx < s.params.nRx := Nat.mod_lt _ (nRx_pos h.params_valid)
  have hndtr := h.stream.rx_residue hclk
  rw [BitVec.toNat_sub_of_le (BitVec.le_def.2 (hndtr ▸ Nat.sub_pos_of_lt hlt)), hndtr]
  exact Nat.sub_sub _ _ 1

/-- The half-transfer event falls with the last item of the first half, the full-transfer event with the last item of
the buffer (R141). -/
theorem Inv.rxAdvance_flags {ht tc te dme : Bool} (hfl : s.rxFlags = ⟨ht, tc, te, dme⟩) :
    (rxAdvance s).rxFlags = ⟨ht || decide (s.rxProgress % s.params.nRx + 1 = s.params.nRx / 2),
      tc || decide (s.rxProgress % s.params.nRx + 1 = s.params.nRx), te, dme⟩ := by
  have hlt : s.rxProgress % s.params.nRx < s.params.nRx := Nat.mod_lt _ (nRx_pos h.params_valid)
  have hhalf : (s.rxNdtr - 1).toNat = s.params.nRx / 2 ↔ s.rxProgress % s.params.nRx + 1 = s.params.nRx / 2 := by
    have heven : s.params.nRx % 2 = 0 := Nat.mul_mod_right 2 _
    rw [h.rxNdtr_sub_one hclk]
    omega
  have hfull : s.rxNdtr - 1 = 0 ↔ s.rxProgress % s.params.nRx + 1 = s.params.nRx := by
    rw [← BitVec.toNat_inj, h.rxNdtr_sub_one hclk]
    change _ = 0 ↔ _
    omega
  simp only [rxAdvance, hfl, hhalf, hfull]

end

/-- Two positions less than a round apart stand in different items. -/
theorem mod_ne_mod_of_near {n j k : Nat} (hjk : j < k) (hnear : k < j + n) : j % n ≠ k % n := fun heq => by
  have hzero := Nat.sub_mod_eq_zero_of_mod_eq heq.symm
  rw [Nat.mod_eq_of_lt (by omega)] at hzero
  omega

/-! ### A run of received words -/

/-- What holds after the words `ws` were received, nothing serviced, from a stream that had just started in `s`. -/
structure Received (s : State) (ws : List Item) (t : State) : Prop where
  inv : Inv t
  enabled : dmaRxEnabled t = true
  params : t.params = s.params
  flags : t.rxFlags = ⟨decide (s.params.nRx / 2 ≤ ws.length), decide (s.params.nRx ≤ ws.length), false, false⟩
  progress : t.rxProgress = ws.length
  trace : t.rxTrace = s.rxTrace ++ ws
  latest : ∀ j, (h : j < ws.length) → ws.length ≤ j + s.params.nRx →
    t.mem.itemAt (rxItemAddr s.params (j % s.params.nRx)) = some ws[j]

theorem JustStarted.received_nil {s : State} (h : JustStarted s) : Received s [] s where
  inv := h.inv
  enabled := by
    obtain ⟨-, hclk, hext, -⟩ := h.inv.runState.running_enables h.running
    obtain ⟨hrx, -, hbus⟩ := h.inv.stream.one_switch
    simp only [dmaRxEnabled, hrx, hbus, hclk, hext, Bool.and_true]
  params := rfl
  flags := by
    have hpos : 0 < s.params.nRx / 2 := by
      obtain ⟨hframes, -⟩ := h.inv.params_valid
      simp only [Params.nRx, Params.blockItemsRx, Config.chIn]
      omega
    have hpos' := nRx_pos h.inv.params_valid
    rw [h.no_causes, List.length_nil, decide_eq_false (Nat.not_le_of_lt hpos), decide_eq_false (Nat.not_le_of_lt hpos')]
  progress := h.no_items.1
  trace := (List.append_nil _).symm
  latest j hj := absurd hj (Nat.not_lt_zero j)

theorem Received.append {s t : State} {ws : List Item} (h : Received s ws t) (w : Item) :
    ∃ u, take (.dmaRx w) t = .next u ∧ Received s (ws ++ [w]) u := by
  have hclk := clocksOn_of_dmaRxEnabled h.enabled
  have hstep := take_dmaRx h.inv h.enabled w
  refine ⟨_, hstep, ?_⟩
  have hlen : (ws ++ [w]).length = ws.length + 1 := List.length_append
  have haddr : rxItemAddr t.params t.rxIdx = rxItemAddr s.params (ws.length % s.params.nRx) := by
    rw [h.inv.rxIdx_eq hclk, h.progress, h.params]
  constructor
  case inv => exact take_inv h.inv hstep
  case enabled => exact h.enabled
  case params => exact h.params
  case progress => rw [hlen, ← h.progress]; rfl
  case trace =>
    change t.rxTrace ++ [w] = _
    rw [h.trace, List.append_assoc]
  case flags =>
    have hflags : (rxAdvance t).rxFlags = _ := h.inv.rxAdvance_flags hclk h.flags
    have hhalf := event_reached ws.length (Nat.div_le_self s.params.nRx 2)
    have hfull := event_reached ws.length (Nat.le_refl s.params.nRx)
    change (rxAdvance t).rxFlags = _
    rw [hflags, h.progress, h.params, hlen, ← Bool.decide_or, ← Bool.decide_or]
    simp only [hhalf, hfull]
  case latest =>
    intro j hj hnear
    change (t.mem.writeItem (rxItemAddr t.params t.rxIdx) w).itemAt _ = _
    rw [haddr]
    rw [hlen] at hj hnear
    rcases Nat.lt_succ_iff_lt_or_eq.1 hj with hlt | rfl
    · have hne := mod_ne_mod_of_near hlt (by omega : ws.length < j + s.params.nRx)
      rw [Memory.itemAt_writeItem_ne, h.latest j hlt (by omega), List.getElem_append_left hlt]
      simp only [rxItemAddr]
      omega
    · simp only [Memory.itemAt_writeItem, List.getElem_concat_length]

theorem JustStarted.received {s : State} (h : JustStarted s) (ws : List Item) :
    ∃ t, runMoves (ws.map .dmaRx) s = .next t ∧ Received s ws t := by
  induction ws using List.reverseRecOn with
  | nil => exact ⟨s, rfl, h.received_nil⟩
  | append_singleton ws w ih =>
    obtain ⟨t, hrun, ht⟩ := ih
    obtain ⟨u, hstep, hu⟩ := ht.append w
    refine ⟨u, ?_, hu⟩
    rw [List.map_append, runMoves_append hrun, List.map_singleton, runMoves_cons_next hstep, runMoves_nil]

/-- Settles O45, by induction on the words, the latest one last. -/
theorem receiveRunFillsTheBuffer : Obligations.ReceiveRunFillsTheBuffer := by
  intro s ws h
  obtain ⟨t, hrun, ht⟩ := h.received ws
  have hndtr := ht.inv.stream.rx_residue (clocksOn_of_dmaRxEnabled ht.enabled)
  rw [ht.params, ht.progress] at hndtr
  exact ⟨t, hrun, ht.flags, ht.progress, hndtr, ht.trace, ht.latest⟩

end Sys2Proof.Machine

/-! PROOFS. Which steps change the event counters and the mode registers, move by move (R22, R28, R29, R43, R44, R46,
R180, R206, R237). -/

namespace Sys2Proof.Machine

/-! ### Steps that change none of them -/

/-- The event counters, the two modes and the ownership bit are as they were. -/
structure SameModes (s t : State) : Prop where
  counts : t.counts = s.counts
  runState : t.runState = s.runState
  recState : t.recState = s.recState
  readyHalf : t.readyHalf = s.readyHalf

theorem SameModes.refl (s : State) : SameModes s s := ⟨rfl, rfl, rfl, rfl⟩

theorem OnlyBus.sameModes {s t : State} (h : OnlyBus s t) : SameModes s t := by
  obtain ⟨sr, x, tr, rfl⟩ := h
  exact ⟨rfl, rfl, rfl, rfl⟩

/-! How a procedure's answer is recorded changes the response and the continuation only (R56, R211). -/

theorem settleSetup_sameModes (rate : BitVec 24) (r : ProcResult SetupPos) :
    SameModes r.state (settleSetup rate r) := by
  cases r <;> exact ⟨rfl, rfl, rfl, rfl⟩

theorem settleStart_sameModes (r : ProcResult (Bool × Nat)) : SameModes r.state (settleStart r) := by
  cases r <;> exact ⟨rfl, rfl, rfl, rfl⟩

theorem settleTxn_sameModes (t : Txn) (r : EngineResult) : SameModes r.state (settleTxn t r) := by
  cases r <;> exact ⟨rfl, rfl, rfl, rfl⟩

theorem settleCorrect_sameModes (r : ProcResult CodecRun) : SameModes r.state (settleCorrect r) := by
  cases r <;> exact ⟨rfl, rfl, rfl, rfl⟩

theorem settleRecoverySetup_sameModes (rate : BitVec 24) (r : ProcResult SetupPos) :
    SameModes r.state (settleRecoverySetup rate r) := by
  cases r <;> exact ⟨rfl, rfl, rfl, rfl⟩

theorem beginRegisterOp_sameModes (t : Txn) (s : State) : SameModes s (beginRegisterOp t s) := by
  unfold beginRegisterOp
  split <;> exact ⟨rfl, rfl, rfl, rfl⟩

theorem setupBegin_sameModes (rate : BitVec 24) (s : State) : SameModes s (setupBegin rate s).state := by
  rcases setupBegin_cases rate s with ⟨-, e⟩ | ⟨-, -, e⟩ | ⟨r, -, -, e⟩ <;> rw [e] <;> exact ⟨rfl, rfl, rfl, rfl⟩

/-! The items and the environment. -/

theorem dmaRxItem_sameModes {w : Item} {s t : State} (h : dmaRxItem w s = .next t) : SameModes s t := by
  rcases dmaRxItem_cases w s with ⟨-, e⟩ | ⟨-, e⟩ <;> rw [e] at h <;> cases h
  exact ⟨rfl, rfl, rfl, rfl⟩

theorem dmaTxItem_sameModes {s t : State} (h : dmaTxItem s = .next t) : SameModes s t := by
  rcases dmaTxItem_cases s with ⟨w, -, e⟩ | ⟨f, -, e⟩ <;> rw [e] at h <;> cases h
  exact ⟨rfl, rfl, rfl, rfl⟩

theorem cbReadStep_sameModes {i : Nat} {s t : State} (h : cbReadStep i s = .next t) : SameModes s t := by
  rcases cbReadStep_cases i s with ⟨w, -, e⟩ | ⟨f, -, e⟩ <;> rw [e] at h <;> cases h
  exact .refl s

theorem cbWriteStep_sameModes {i : Nat} {w : Item} {s t : State} (h : cbWriteStep i w s = .next t) :
    SameModes s t := by
  rcases cbWriteStep_cases i w s with ⟨-, e⟩ | ⟨-, e⟩ <;> rw [e] at h <;> cases h
  exact ⟨rfl, rfl, rfl, rfl⟩

theorem cbAck_sameModes (b : Byte) (s : State) : SameModes s (cbAck b s) := by
  unfold cbAck
  split <;> exact ⟨rfl, rfl, rfl, rfl⟩

theorem dmaError_sameModes (ch : Channel) (kind : DmaErrorKind) (s : State) : SameModes s (dmaError ch kind s) := by
  cases ch <;> cases kind <;> exact ⟨rfl, rfl, rfl, rfl⟩

/-- The moves of the channels, the callback and the environment. -/
def isDataMove : Move → Bool
  | .cbRead _ | .cbWrite _ _ | .dmaRx _ | .dmaTx | .pllLock | .cbAck _ | .wsToggle | .frameError | .dmaError _ _ => true
  | .command _ | .fg | .dispEntry | .disp | .dispExit | .txh | .feh => false

/-- They touch no counter and no mode. -/
theorem act_sameModes {m : Move} {s t : State} (hm : isDataMove m = true) (h : act m s = .next t) : SameModes s t := by
  cases m with
  | cbRead i => exact cbReadStep_sameModes h
  | cbWrite i w => exact cbWriteStep_sameModes h
  | dmaRx w => exact dmaRxItem_sameModes h
  | dmaTx => exact dmaTxItem_sameModes h
  | pllLock =>
    cases h
    exact ⟨rfl, rfl, rfl, rfl⟩
  | cbAck b =>
    cases h
    exact cbAck_sameModes b s
  | wsToggle =>
    cases h
    exact ⟨rfl, rfl, rfl, rfl⟩
  | frameError =>
    cases h
    exact ⟨rfl, rfl, rfl, rfl⟩
  | dmaError ch kind =>
    cases h
    exact dmaError_sameModes ch kind s
  | command | fg | dispEntry | disp | dispExit | txh | feh => cases hm

/-! ### The event counters -/

/-- What a step may do to the six counters (R43, R44, R237). -/
structure CountsStep (m : Move) (s t : State) : Prop where
  underrun : t.underrunCount = s.underrunCount ∨ (m = .dispExit ∧ t.underrunCount = satInc s.underrunCount)
  te : t.teCount = s.teCount ∨ ((m = .dispEntry ∨ m = .txh) ∧ t.teCount = satInc s.teCount)
  dme : t.dmeCount = s.dmeCount ∨ ((m = .dispEntry ∨ m = .txh) ∧ t.dmeCount = satInc s.dmeCount)
  recovery : t.recoveryCount = s.recoveryCount ∨ (m = .disp ∧ t.recoveryCount = satInc s.recoveryCount)
  recoveryFail : t.recoveryFailCount = s.recoveryFailCount
    ∨ (m = .disp ∧ t.recoveryFailCount = satInc s.recoveryFailCount)
  callback : t.callbackCount = s.callbackCount
    ∨ ((m = .dispEntry ∨ m = .disp) ∧ t.callbackCount = satInc s.callbackCount)

theorem State.counts_eq_iff (s t : State) :
    t.counts = s.counts ↔ t.underrunCount = s.underrunCount ∧ t.teCount = s.teCount ∧ t.dmeCount = s.dmeCount
      ∧ t.recoveryCount = s.recoveryCount ∧ t.recoveryFailCount = s.recoveryFailCount
      ∧ t.callbackCount = s.callbackCount := by
  simp [State.counts]

theorem CountsStep.of_eq {m : Move} {s t : State} (h : t.counts = s.counts) : CountsStep m s t := by
  obtain ⟨hunder, hte, hdme, hrec, hfail, hcall⟩ := (State.counts_eq_iff s t).1 h
  exact ⟨.inl hunder, .inl hte, .inl hdme, .inl hrec, .inl hfail, .inl hcall⟩

/-- A step whose first part keeps the counters. -/
theorem CountsStep.of_kept {m : Move} {s t u : State} (h : t.counts = s.counts) (hstep : CountsStep m t u) :
    CountsStep m s u := by
  obtain ⟨hunder, hte, hdme, hrec, hfail, hcall⟩ := (State.counts_eq_iff s t).1 h
  exact ⟨hunder ▸ hstep.underrun, hte ▸ hstep.te, hdme ▸ hstep.dme, hrec ▸ hstep.recovery,
    hfail ▸ hstep.recoveryFail, hcall ▸ hstep.callback⟩

/-! FG counts nothing: the counters count in interrupt context only (R237). -/

theorem startBegin_counts (s : State) : (startBegin s).state.counts = s.counts := by
  rcases startBegin_cases s with ⟨-, e⟩ | ⟨-, e⟩ <;> rw [e] <;> rfl

theorem fgStepAt_counts (k : FgProc) (s : State) : (fgStepAt k s).counts = s.counts := by
  cases k with
  | setup rate pos => exact (settleSetup_sameModes rate _).counts.trans (setupStep_frame rate pos s).counts
  | start ws0 left => exact (settleStart_sameModes _).counts.trans (startStep_frame ws0 left s).counts
  | transaction r => exact (settleTxn_sameModes r.txn _).counts.trans (engineStep_onlyBus r s).frame.counts

theorem fgStep_counts (s : State) : (fgStep s).counts = s.counts := by
  unfold fgStep
  split
  next k _ => exact fgStepAt_counts k s
  next => rfl

theorem exec_counts {i : Instr} {s t : State} (h : exec i s = .next t) : t.counts = s.counts := by
  cases i with
  | setup rate =>
    cases h
    exact (settleSetup_sameModes rate _).counts.trans (setupBegin_sameModes rate s).counts
  | start =>
    cases h
    exact (settleStart_sameModes _).counts.trans (startBegin_counts s)
  | disable =>
    cases h
    rfl
  | writeRegister dev reg val =>
    cases h
    exact (beginRegisterOp_sameModes _ s).counts
  | readRegister dev reg =>
    cases h
    exact (beginRegisterOp_sameModes _ s).counts
  | getProperty sel =>
    cases h
    split <;> rfl
  | getStatus sel =>
    cases h
    rfl
  | clearUnderrun =>
    cases h
    rfl

theorem accept_counts {w : Word32} {s t : State} (h : accept w s = .next t) : t.counts = s.counts := by
  rcases accept_cases w s with ⟨i, -, e⟩ | ⟨_, -, e⟩ <;> rw [e] at h
  · have hkeep : t.counts = State.counts { s with cmd := w } := exec_counts h
    exact hkeep
  · cases h
    rfl

/-! DISP counts recoveries and callbacks, and the handlers count errors (R43, R44). -/

theorem recoverySucceed_countsStep (s : State) : CountsStep .disp s (recoverySucceed s) := by
  unfold recoverySucceed
  dsimp only
  split
  · exact ⟨.inl rfl, .inl rfl, .inl rfl, .inr ⟨rfl, rfl⟩, .inl rfl, .inr ⟨.inr rfl, rfl⟩⟩
  · exact ⟨.inl rfl, .inl rfl, .inl rfl, .inr ⟨rfl, rfl⟩, .inl rfl, .inl rfl⟩

theorem recoveryFail_countsStep (e : ErrCode) (s : State) : CountsStep .disp s (recoveryFail e s) :=
  ⟨.inl rfl, .inl rfl, .inl rfl, .inl rfl, .inr ⟨rfl, rfl⟩, .inl rfl⟩

theorem settleRecoveryStart_countsStep {s : State} {r : ProcResult (Bool × Nat)} (h : r.state.counts = s.counts) :
    CountsStep .disp s (settleRecoveryStart r) := by
  cases r with
  | going pos t => exact .of_eq h
  | done t => exact .of_kept h (recoverySucceed_countsStep t)
  | failed e t => exact .of_eq h

theorem recoveryStepAt_countsStep (k : RecoveryProc) (s : State) : CountsStep .disp s (recoveryStepAt k s) := by
  cases k with
  | correct c => exact .of_eq ((settleCorrect_sameModes _).counts.trans (codecStep_onlyBus c s).frame.counts)
  | teardown => exact .of_eq rfl
  | setupBegin =>
    exact .of_eq ((settleRecoverySetup_sameModes s.cfgRate _).counts.trans (setupBegin_sameModes s.cfgRate s).counts)
  | setup rate pos =>
    exact .of_eq ((settleRecoverySetup_sameModes rate _).counts.trans (setupStep_frame rate pos s).counts)
  | startBegin => exact settleRecoveryStart_countsStep (startBegin_counts s)
  | startWait ws0 left => exact settleRecoveryStart_countsStep (startStep_frame ws0 left s).counts
  | fail e => exact recoveryFail_countsStep e s

theorem recoveryStep_countsStep (s : State) : CountsStep .disp s (recoveryStep s) := by
  unfold recoveryStep
  split
  next k _ => exact recoveryStepAt_countsStep k s
  next => exact .of_eq rfl

theorem dispEntry_countsStep (s : State) : CountsStep .dispEntry s (dispEntry s) := by
  have hcases := dispEntry_cases s
  obtain ⟨fl, te, dme, rh, db, hte, hdme, e⟩ := dispHandoff_cases s
  rw [e] at hcases
  rcases hcases with ⟨-, e⟩ | ⟨-, -, e⟩ | ⟨-, -, e⟩ <;> rw [e] <;>
    refine ⟨.inl rfl, hte.imp_right fun h => ⟨.inl rfl, h⟩, hdme.imp_right fun h => ⟨.inl rfl, h⟩, .inl rfl,
      .inl rfl, ?_⟩
  · exact .inl rfl
  · exact .inr ⟨.inl rfl, rfl⟩
  · exact .inl rfl

theorem txh_countsStep (s : State) : CountsStep .txh s (txh s) := by
  obtain ⟨fl, te, dme, hte, hdme, e⟩ := txh_cases s
  rw [e]
  exact ⟨.inl rfl, hte.imp_right fun h => ⟨.inr rfl, h⟩, hdme.imp_right fun h => ⟨.inr rfl, h⟩, .inl rfl, .inl rfl,
    .inl rfl⟩

theorem dispExit_countsStep (s : State) : CountsStep .dispExit s (dispExit s) := by
  unfold dispExit
  dsimp only
  split
  · exact ⟨.inr ⟨rfl, rfl⟩, .inl rfl, .inl rfl, .inl rfl, .inl rfl, .inl rfl⟩
  · exact .of_eq rfl

theorem act_countsStep {m : Move} {s t : State} (h : act m s = .next t) : CountsStep m s t := by
  cases m with
  | command w => exact .of_eq (accept_counts h)
  | fg =>
    cases h
    exact .of_eq (fgStep_counts s)
  | dispEntry =>
    cases h
    exact dispEntry_countsStep s
  | disp =>
    cases h
    exact recoveryStep_countsStep s
  | dispExit =>
    cases h
    exact dispExit_countsStep s
  | txh =>
    cases h
    exact txh_countsStep s
  | feh =>
    cases h
    exact .of_eq rfl
  | cbRead | cbWrite | dmaRx | dmaTx | pllLock | cbAck | wsToggle | frameError | dmaError =>
    exact .of_eq (act_sameModes rfl h).counts

/-- Settles O39, move by move. -/
theorem countersOnlyCountEvents : Obligations.CountersOnlyCountEvents := by
  intro m s t h
  have hstep : CountsStep m s t := by
    rcases take_cases m s with ⟨-, e⟩ | ⟨-, e⟩ <;> rw [e] at h
    · exact act_countsStep h
    · cases h
      exact .of_eq rfl
  exact ⟨hstep.underrun, hstep.te, hstep.dme, hstep.recovery, hstep.recoveryFail, hstep.callback, satInc_toNat⟩

/-! ### The mode registers -/

/-- What a step may do to the two mode registers and the ownership bit (R22, R28, R29, R180). -/
structure ModesStep (m : Move) (s t : State) : Prop where
  recState : t.recState ≠ s.recState →
    (m = .feh ∧ s.recState = .normal ∧ t.recState = .frameErrorPending)
      ∨ (m = .dispEntry ∧ s.recState = .frameErrorPending ∧ t.recState = .recovering)
      ∨ (m = .disp ∧ s.recState = .recovering ∧ t.recState = .normal)
      ∨ (m = .command 0x30000000 ∧ s.recState = .frameErrorPending ∧ t.recState = .normal)
  runState : t.runState ≠ s.runState →
    (m = .dispEntry ∧ s.runState = .running ∧ t.runState = .faulted)
      ∨ (m = .disp ∧ s.recState = .recovering)
      ∨ (m = .command 0x30000000 ∧ t.runState = if s.cfgValid then .configured else .uninitialized)
      ∨ (m = .fg ∧ s.runState = .configured ∧ t.runState = .running)
      ∨ (m = .fg ∧ s.runState ≠ .running ∧ (t.runState = .configured ∨ t.runState = .uninitialized))
  readyHalf : t.readyHalf ≠ s.readyHalf →
    m = .dispEntry ∨ ((m = .command 0x20000000 ∨ m = .disp) ∧ t.readyHalf = 1)

theorem ModesStep.of_eq {m : Move} {s t : State} (hrun : t.runState = s.runState) (hrec : t.recState = s.recState)
    (hhalf : t.readyHalf = s.readyHalf) : ModesStep m s t :=
  ⟨fun hne => absurd hrec hne, fun hne => absurd hrun hne, fun hne => absurd hhalf hne⟩

theorem SameModes.modesStep {m : Move} {s t : State} (h : SameModes s t) : ModesStep m s t :=
  .of_eq h.runState h.recState h.readyHalf

/-- A step whose last part changes neither mode. -/
theorem ModesStep.trans_same {m : Move} {s t u : State} (h : ModesStep m s t) (hu : SameModes t u) :
    ModesStep m s u := by
  obtain ⟨-, hrun, hrec, hhalf⟩ := hu
  exact ⟨hrec ▸ h.recState, hrun ▸ h.runState, hhalf ▸ h.readyHalf⟩

/-! Commands: only DISABLE and START change one of them. -/

/-- A row whose mask is full selects one word (R92). -/
theorem eq_of_selects_full {p w : Word32} (h : OpcodeRow.selects ⟨p, 0xFFFFFFFF⟩ w = true) : w = p := by
  have hmask : (0xFFFFFFFF : Word32) = BitVec.allOnes 32 := by decide
  simpa only [OpcodeRow.selects, hmask, BitVec.and_allOnes, beq_iff_eq] using h

theorem word_of_decode_start {w : Word32} (h : decode w = .ok .start) : w = 0x20000000 := by
  unfold decode at h
  split_ifs at h with _ hsel <;> cases h
  exact eq_of_selects_full hsel

theorem word_of_decode_disable {w : Word32} (h : decode w = .ok .disable) : w = 0x30000000 := by
  unfold decode at h
  split_ifs at h with _ _ hsel <;> cases h
  exact eq_of_selects_full hsel

theorem doDisable_modesStep (s : State) : ModesStep (.command 0x30000000) s (doDisable s) where
  recState hne := by
    rw [doDisable_recState] at hne ⊢
    split at hne
    next hpend => exact .inr (.inr (.inr ⟨rfl, hpend, if_pos hpend⟩))
    next => exact absurd rfl hne
  runState _ := .inr (.inr (.inl ⟨rfl, rfl⟩))
  readyHalf hne := absurd rfl hne

theorem startBegin_modesStep (s : State) : ModesStep (.command 0x20000000) s (startBegin s).state := by
  rcases startBegin_cases s with ⟨-, e⟩ | ⟨-, e⟩ <;> rw [e]
  · exact ⟨fun hne => absurd rfl hne, fun hne => absurd rfl hne, fun _ => .inr ⟨.inl rfl, rfl⟩⟩
  · exact .of_eq rfl rfl rfl

theorem exec_modesStep {w : Word32} {i : Instr} {s t : State} (hdec : decode w = .ok i) (h : exec i s = .next t) :
    ModesStep (.command w) s t := by
  cases i with
  | setup rate =>
    cases h
    exact (setupBegin_sameModes rate s).modesStep.trans_same (settleSetup_sameModes rate _)
  | start =>
    cases h
    rw [word_of_decode_start hdec]
    exact (startBegin_modesStep s).trans_same (settleStart_sameModes _)
  | disable =>
    cases h
    rw [word_of_decode_disable hdec]
    exact (doDisable_modesStep s).trans_same ⟨rfl, rfl, rfl, rfl⟩
  | writeRegister dev reg val =>
    cases h
    exact (beginRegisterOp_sameModes _ s).modesStep
  | readRegister dev reg =>
    cases h
    exact (beginRegisterOp_sameModes _ s).modesStep
  | getProperty sel =>
    cases h
    split <;> exact .of_eq rfl rfl rfl
  | getStatus sel =>
    cases h
    exact .of_eq rfl rfl rfl
  | clearUnderrun =>
    cases h
    exact .of_eq rfl rfl rfl

theorem accept_modesStep {w : Word32} {s t : State} (h : accept w s = .next t) : ModesStep (.command w) s t := by
  rcases accept_cases w s with ⟨i, hdec, e⟩ | ⟨_, -, e⟩ <;> rw [e] at h
  · have hstep : ModesStep (.command w) { s with cmd := w } t := exec_modesStep hdec h
    exact { hstep with }
  · cases h
    exact .of_eq rfl rfl rfl

/-! FG's procedures change the run state only. -/

/-- What a step of `do_setup` may do to the run state (R28, R130, R131). -/
theorem setupStep_runState (rate : BitVec 24) (pos : SetupPos) (s : State) :
    (setupStep rate pos s).state.runState = s.runState ∨ (setupStep rate pos s).state.runState = .configured
      ∨ (setupStep rate pos s).state.runState = .uninitialized := by
  rcases setupStep_cases rate pos s with ⟨_, -, -, e⟩ | ⟨_, -, -, -, e⟩ | ⟨_, -, -, -, e⟩ | ⟨-, e⟩
      | ⟨c, c', t, -, hc, e⟩ | ⟨c, t, -, hc, e⟩ | ⟨c, err, t, -, hc, e⟩ | ⟨-, -, e⟩ | ⟨-, -, e⟩
      | ⟨-, e⟩ | ⟨-, e⟩ <;> rw [e]
  · exact .inl rfl
  · exact .inl rfl
  · exact .inr (.inr rfl)
  · exact .inl rfl
  · exact .inl (onlyBus_of_codecStep hc).runState
  · exact .inl (onlyBus_of_codecStep hc).runState
  · exact .inr (.inr rfl)
  · exact .inl rfl
  · exact .inl rfl
  · exact .inl rfl
  · exact .inr (.inl rfl)

/-- What a step of `do_start`'s wait may do to the run state (R28, R134). -/
theorem startStep_runState (ws0 : Bool) (left : Nat) (s : State) :
    (startStep ws0 left s).state.runState = s.runState ∨ (startStep ws0 left s).state.runState = .running
      ∨ (startStep ws0 left s).state.runState = .configured
      ∨ (startStep ws0 left s).state.runState = .uninitialized := by
  rcases startStep_cases ws0 left s with ⟨-, e⟩ | ⟨-, -, e⟩ | ⟨-, -, e⟩ <;> rw [e]
  · exact .inr (.inl rfl)
  · cases hv : s.cfgValid
    · exact .inr (.inr (.inr (by simp [ProcResult.state, hv])))
    · exact .inr (.inr (.inl (by simp [ProcResult.state, hv])))
  · exact .inl rfl

theorem fgStepAt_modesStep {k : FgProc} {s : State} (h : FgAt k s) : ModesStep .fg s (fgStepAt k s) := by
  have hframe : ∀ {t}, ProcFrame s t → t.recState = s.recState := fun hf => hf.recState h.offline.not_pending
  cases k with
  | setup rate pos =>
    have hf := setupStep_frame rate pos s
    have hstep : ModesStep .fg s (setupStep rate pos s).state :=
      { recState := fun hne => absurd (hframe hf) hne
        readyHalf := fun hne => absurd hf.readyHalf hne
        runState := fun hne => .inr (.inr (.inr (.inr
          ⟨rfl, h.offline.not_running, (setupStep_runState rate pos s).resolve_left hne⟩))) }
    exact hstep.trans_same (settleSetup_sameModes rate _)
  | start ws0 left =>
    have hf := startStep_frame ws0 left s
    have hstep : ModesStep .fg s (startStep ws0 left s).state :=
      { recState := fun hne => absurd (hframe hf) hne
        readyHalf := fun hne => absurd hf.readyHalf hne
        runState := fun hne => by
          rcases (startStep_runState ws0 left s).resolve_left hne with hrun | hstop
          · exact .inr (.inr (.inr (.inl ⟨rfl, h.fits.2, hrun⟩)))
          · exact .inr (.inr (.inr (.inr ⟨rfl, h.offline.not_running, hstop⟩))) }
    exact hstep.trans_same (settleStart_sameModes _)
  | transaction r => exact (engineStep_onlyBus r s).sameModes.modesStep.trans_same (settleTxn_sameModes r.txn _)

theorem fgStep_modesStep {s : State} (h : Inv s) : ModesStep .fg s (fgStep s) := by
  unfold fgStep
  split
  next k hk => exact fgStepAt_modesStep (h.fgAt hk)
  next => exact .of_eq rfl rfl rfl

/-! The recovery sequence may change the run state at every step, `rec_state` at its end, and the ownership bit in
step A (R185 to R189). -/

/-- What a step of the recovery sequence may do to `rec_state` and to the ownership bit. -/
def RecoveryModes (s t : State) : Prop :=
  (t.recState = .recovering ∨ t.recState = .normal) ∧ (t.readyHalf = s.readyHalf ∨ t.readyHalf = 1)

theorem RecoveryModes.modesStep {s t : State} (hrec : s.recState = .recovering) (h : RecoveryModes s t) :
    ModesStep .disp s t where
  recState hne := .inr (.inr (.inl ⟨rfl, hrec, h.1.resolve_left (hrec ▸ hne)⟩))
  runState _ := .inr (.inl ⟨rfl, hrec⟩)
  readyHalf hne := .inr ⟨.inr rfl, h.2.resolve_left hne⟩

theorem settleRecoveryStart_recoveryModes {s : State} {r : ProcResult (Bool × Nat)} (h : RecoveryModes s r.state) :
    RecoveryModes s (settleRecoveryStart r) := by
  cases r with
  | going pos t => exact h
  | done t =>
    change RecoveryModes s (recoverySucceed t)
    unfold recoverySucceed
    dsimp only
    split <;> exact ⟨.inr rfl, h.2⟩
  | failed e t => exact h

section
variable {s : State} (hrec : s.recState = .recovering)
include hrec

theorem ProcFrame.recoveryModes {t u : State} (h : ProcFrame s t) (hu : SameModes t u) : RecoveryModes s u :=
  ⟨.inl ((hu.recState.trans (h.recState (by simp [hrec]))).trans hrec), .inl (hu.readyHalf.trans h.readyHalf)⟩

theorem recoveryStepAt_recoveryModes (k : RecoveryProc) : RecoveryModes s (recoveryStepAt k s) := by
  cases k with
  | correct c => exact (codecStep_onlyBus c s).frame.recoveryModes hrec (settleCorrect_sameModes _)
  | teardown => exact (doDisable_frame s).recoveryModes hrec ⟨rfl, rfl, rfl, rfl⟩
  | setupBegin =>
    exact (setupBegin_frame s.cfgRate s).recoveryModes hrec (settleRecoverySetup_sameModes s.cfgRate _)
  | setup rate pos => exact (setupStep_frame rate pos s).recoveryModes hrec (settleRecoverySetup_sameModes rate _)
  | startBegin =>
    refine settleRecoveryStart_recoveryModes ?_
    rcases startBegin_cases s with ⟨-, e⟩ | ⟨-, e⟩ <;> rw [e]
    · exact ⟨.inl hrec, .inr rfl⟩
    · exact ⟨.inl hrec, .inl rfl⟩
  | startWait ws0 left =>
    exact settleRecoveryStart_recoveryModes ((startStep_frame ws0 left s).recoveryModes hrec (.refl _))
  | fail e => exact ⟨.inr rfl, .inl rfl⟩

theorem recoveryStep_modesStep : ModesStep .disp s (recoveryStep s) := by
  unfold recoveryStep
  split
  next k _ => exact (recoveryStepAt_recoveryModes hrec k).modesStep hrec
  next => exact .of_eq rfl rfl rfl

end

/-! The handlers. -/

/-- DISP's entry consumes a pending frame error, which only a running block has (R182, R183). -/
theorem dispEntry_modesStep {s : State} (h : Inv s) : ModesStep .dispEntry s (dispEntry s) := by
  have hcases := dispEntry_cases s
  obtain ⟨fl, te, dme, rh, db, -, -, e⟩ := dispHandoff_cases s
  rw [e] at hcases
  rcases hcases with ⟨hpend, e⟩ | ⟨-, -, e⟩ | ⟨-, -, e⟩ <;> rw [e]
  · exact ⟨fun _ => .inr (.inl ⟨rfl, hpend, rfl⟩), fun _ => .inl ⟨rfl, h.runState.pending_running hpend, rfl⟩,
      fun _ => .inl rfl⟩
  · exact ⟨fun hne => absurd rfl hne, fun hne => absurd rfl hne, fun _ => .inl rfl⟩
  · exact ⟨fun hne => absurd rfl hne, fun hne => absurd rfl hne, fun _ => .inl rfl⟩

theorem dispExit_modesStep (s : State) : ModesStep .dispExit s (dispExit s) := by
  unfold dispExit
  dsimp only
  split <;> exact .of_eq rfl rfl rfl

theorem txh_modesStep (s : State) : ModesStep .txh s (txh s) := by
  obtain ⟨fl, te, dme, -, -, e⟩ := txh_cases s
  rw [e]
  exact .of_eq rfl rfl rfl

theorem feh_modesStep (s : State) : ModesStep .feh s (feh s) where
  recState hne := by
    rw [feh_recState] at hne ⊢
    split at hne
    next hnormal => exact .inl ⟨rfl, hnormal, if_pos hnormal⟩
    next => exact absurd rfl hne
  runState hne := absurd rfl hne
  readyHalf hne := absurd rfl hne

theorem act_modesStep {m : Move} {s t : State} (h : Inv s) (hen : enabled m s = true) (ht : act m s = .next t) :
    ModesStep m s t := by
  cases m with
  | command w => exact accept_modesStep ht
  | fg =>
    cases ht
    exact fgStep_modesStep h
  | dispEntry =>
    cases ht
    exact dispEntry_modesStep h
  | disp =>
    cases ht
    exact recoveryStep_modesStep (h.dispatcher.recovering_iff.2 (of_decide_eq_true hen))
  | dispExit =>
    cases ht
    exact dispExit_modesStep s
  | txh =>
    cases ht
    exact txh_modesStep s
  | feh =>
    cases ht
    exact feh_modesStep s
  | cbRead | cbWrite | dmaRx | dmaTx | pllLock | cbAck | wsToggle | frameError | dmaError =>
    exact (act_sameModes rfl ht).modesStep

/-- Settles O38, move by move. -/
theorem onlyTheseStepsChangeModes : Obligations.OnlyTheseStepsChangeModes := by
  intro m s t h ht
  have hstep : ModesStep m s t := by
    rcases take_cases m s with ⟨hen, e⟩ | ⟨-, e⟩ <;> rw [e] at ht
    · exact act_modesStep h hen ht
    · cases ht
      exact .of_eq rfl rfl rfl
  exact ⟨hstep.recState, hstep.runState, hstep.readyHalf⟩

end Sys2Proof.Machine

/-! PROOFS. The item accesses of the callback and of DMA_RX, and that no access stops the machine (R62 to R64, R141,
R168 to R170, R211). -/

namespace Sys2Proof.Machine

/-! ### The callback's accesses -/

/-- Item `i` of a half is an item of the double buffer, which has two halves (R67). -/
theorem halfItem_lt (h : Half) {i n : Nat} (hi : i < n) : h.val * n + i < 2 * n :=
  calc h.val * n + i < h.val * n + n := Nat.add_lt_add_left hi _
    _ = (h.val + 1) * n := (Nat.succ_mul _ _).symm
    _ ≤ 2 * n := Nat.mul_le_mul_right n h.isLt

theorem cbReadAddr_eq (s : State) (i : Nat) :
    cbReadAddr s i = rxItemAddr s.params (s.dispHalf.val * s.params.blockItemsRx + i) := by
  simp only [cbReadAddr, inBlock, rxItemAddr, Params.nRx]
  ring

theorem cbWriteAddr_eq (s : State) (i : Nat) :
    cbWriteAddr s i = txItemAddr s.params (s.dispHalf.val * s.params.blockItemsTx + i) := by
  simp only [cbWriteAddr, outBlock, txItemAddr, Params.nTx]
  ring

section
variable {s : State} {i : Nat}

theorem isItemAddr_cbRead (hi : i < s.params.blockItemsRx) : isItemAddr s.params (cbReadAddr s i) = true :=
  (isItemAddr_iff _ _).2 (.inl ⟨_, halfItem_lt s.dispHalf hi, cbReadAddr_eq s i⟩)

theorem isItemAddr_cbWrite (hi : i < s.params.blockItemsTx) : isItemAddr s.params (cbWriteAddr s i) = true :=
  (isItemAddr_iff _ _).2 (.inr ⟨_, halfItem_lt s.dispHalf hi, cbWriteAddr_eq s i⟩)

theorem enabled_cbRead_iff :
    enabled (.cbRead i) s = true ↔ s.dispPhase = .callback ∧ i < s.params.blockItemsRx := by
  simp only [enabled, Bool.and_eq_true, decide_eq_true_eq]

theorem enabled_cbWrite_iff {w : Item} :
    enabled (.cbWrite i w) s = true ↔ s.dispPhase = .callback ∧ i < s.params.blockItemsTx := by
  simp only [enabled, Bool.and_eq_true, decide_eq_true_eq]

/-- The callback reads an item that is there: it runs only over initialised buffers (R62, R168). -/
theorem Inv.cbReadValue_ok (h : Inv s) (hcall : s.dispPhase = .callback) (hi : i < s.params.blockItemsRx) :
    ∃ v, s.mem.itemAt (cbReadAddr s i) = some v ∧ cbReadValue i s = .ok v := by
  have haddr := isItemAddr_cbRead hi
  have hinit : s.bufsInit = true := h.dispatcher.active_init (by simp [hcall])
  obtain ⟨v, hv⟩ := h.itemAt_isSome hinit haddr
  exact ⟨v, hv, by simp only [cbReadValue, memRead, haddr, hv, if_true]⟩

theorem take_cbRead (h : Inv s) (hcall : s.dispPhase = .callback) (hi : i < s.params.blockItemsRx) :
    take (.cbRead i) s = .next s := by
  obtain ⟨v, -, hv⟩ := h.cbReadValue_ok hcall hi
  rw [take_of_enabled (enabled_cbRead_iff.2 ⟨hcall, hi⟩)]
  simp only [act, cbReadStep, hv]

theorem take_cbWrite (hcall : s.dispPhase = .callback) (hi : i < s.params.blockItemsTx) (w : Item) :
    take (.cbWrite i w) s = .next { s with mem := s.mem.writeItem (cbWriteAddr s i) w } := by
  rw [take_of_enabled (enabled_cbWrite_iff.2 ⟨hcall, hi⟩)]
  rcases cbWriteStep_cases i w s with ⟨-, e⟩ | ⟨hna, -⟩
  · exact e
  · simp [isItemAddr_cbWrite hi] at hna

end

/-- One stored item, byte by byte: its low byte, its high byte, and every other byte as it was (R60). -/
theorem Memory.byteAt_writeItem_spec (m : Memory) (a : Nat) (w : Item) :
    (m.writeItem a w).byteAt a = some (w.extractLsb' 0 8) ∧ (m.writeItem a w).byteAt (a + 1) = some (w.extractLsb' 8 8)
      ∧ ∀ x, x ≠ a → x ≠ a + 1 → (m.writeItem a w).byteAt x = m.byteAt x := by
  refine ⟨?_, ?_, fun x hlow hhigh => ?_⟩ <;> rw [Memory.byteAt_writeItem]
  · rw [if_pos rfl]
  · rw [if_neg (Nat.succ_ne_self a), if_pos rfl]
  · rw [if_neg hlow, if_neg hhigh]

/-- Settles O49, by whether the item is one of the half. -/
theorem callbackAccesses : Obligations.CallbackAccesses := by
  intro s i w h hcall
  have hread : enabled (.cbRead i) s = true ↔ i < s.params.blockItemsRx :=
    enabled_cbRead_iff.trans (and_iff_right hcall)
  have hwrite : enabled (.cbWrite i w) s = true ↔ i < s.params.blockItemsTx :=
    enabled_cbWrite_iff.trans (and_iff_right hcall)
  refine ⟨rfl, fun hi => ⟨take_cbRead h hcall hi, h.cbReadValue_ok hcall hi⟩, ?_, hread, hwrite, fun hi => ?_,
    fun hi => ?_⟩
  · rintro a rfl hi
    exact ⟨_, take_cbWrite hcall hi w, rfl, Memory.byteAt_writeItem_spec s.mem _ w⟩
  · have hdis : enabled (.cbRead i) s = false := Bool.eq_false_iff.2 (mt hread.1 (Nat.not_lt.2 hi))
    exact ⟨hdis, take_of_disabled hdis⟩
  · have hdis : enabled (.cbWrite i w) s = false := Bool.eq_false_iff.2 (mt hwrite.1 (Nat.not_lt.2 hi))
    exact ⟨hdis, take_of_disabled hdis⟩

/-! ### The item DMA_RX stores -/

/-- What `rxAdvance` does, in terms of the count before the step, which is not 0 and so falls by one (R141). -/
theorem rxAdvance_eq {s : State} (hpos : 0 < s.rxNdtr.toNat) :
    rxAdvance s = { s with
      rxProgress := s.rxProgress + 1
      rxNdtr := if s.rxNdtr = 1 then BitVec.ofNat 16 s.params.nRx else s.rxNdtr - 1
      rxFlags := { s.rxFlags with
        ht := s.rxFlags.ht || decide (s.rxNdtr.toNat = s.params.nRx / 2 + 1)
        tc := s.rxFlags.tc || decide (s.rxNdtr = 1) } } := by
  have hfall : (s.rxNdtr - 1).toNat = s.rxNdtr.toNat - 1 := BitVec.toNat_sub_of_le (BitVec.le_def.2 hpos)
  have hhalf : (s.rxNdtr - 1).toNat = s.params.nRx / 2 ↔ s.rxNdtr.toNat = s.params.nRx / 2 + 1 := by
    rw [hfall]
    omega
  simp only [rxAdvance, hhalf, sub_eq_zero]

/-- Settles O43: the count is the residue of the progress, so the item's address lies in `RXBUF`. -/
theorem receiveItemStep : Obligations.ReceiveItemStep := by
  rintro s w a h hen rfl
  have hclk := clocksOn_of_dmaRxEnabled hen
  have hpos : 0 < s.rxNdtr.toNat := by
    rw [h.stream.rx_residue hclk]
    exact Nat.sub_pos_of_lt (Nat.mod_lt _ (nRx_pos h.params_valid))
  have hidx : s.params.nRx - s.rxNdtr.toNat < s.params.nRx := Nat.sub_lt (nRx_pos h.params_valid) hpos
  obtain ⟨hlow, hhigh, hother⟩ := Memory.byteAt_writeItem_spec s.mem (rxItemAddr s.params s.rxIdx) w
  refine ⟨_, take_dmaRx h hen w, rxAdvance_eq hpos, hlow, hhigh, hother, Nat.le_add_right _ _, ?_⟩
  simp only [Params.dbufBytesRx, Config.itemBytes]
  omega

/-! ### No step stops the machine -/

theorem accept_next (w : Word32) (s : State) : ∃ t, accept w s = .next t := by
  rcases accept_cases w s with ⟨i, -, e⟩ | ⟨_, -, e⟩ <;> rw [e]
  · exact exec_next i _
  · exact ⟨_, rfl⟩

/-- The four item accesses are the only moves that could fault, and the invariant keeps them inside written buffers. -/
theorem Inv.act_next {m : Move} {s : State} (h : Inv s) (hen : enabled m s = true) : ∃ t, act m s = .next t := by
  rw [← take_of_enabled hen]
  cases m with
  | command w => exact take_of_enabled hen ▸ accept_next w s
  | cbRead i =>
    obtain ⟨hcall, hi⟩ := enabled_cbRead_iff.1 hen
    exact ⟨_, take_cbRead h hcall hi⟩
  | cbWrite i w =>
    obtain ⟨hcall, hi⟩ := enabled_cbWrite_iff.1 hen
    exact ⟨_, take_cbWrite hcall hi w⟩
  | dmaRx w => exact ⟨_, take_dmaRx h hen w⟩
  | dmaTx =>
    have hclk := clocksOn_of_dmaTxEnabled hen
    obtain ⟨w, hw⟩ := h.itemAt_isSome (h.stream.armed_valid hclk) (h.isItemAddr_tx hclk)
    exact ⟨_, take_dmaTx h hen hw⟩
  | fg | dispEntry | disp | dispExit | txh | feh | pllLock | cbAck | wsToggle | frameError | dmaError =>
    exact ⟨_, take_of_enabled hen⟩

theorem Inv.take_next {s : State} (h : Inv s) (m : Move) : ∃ t, take m s = .next t := by
  rcases take_cases m s with ⟨hen, e⟩ | ⟨-, e⟩ <;> rw [e]
  · exact h.act_next hen
  · exact ⟨s, rfl⟩

/-- Settles O37: the choice of the next move keeps the invariant, and from it every move answers. -/
theorem everyStepAnswersNext : Obligations.EveryStepAnswersNext :=
  fun s h => (afterChoice_inv h).take_next (nextMove s)

end Sys2Proof.Machine

/-! PROOFS. Which steps write sample memory, and where (R70, R133, R141, R169, R206, R234). -/

namespace Sys2Proof.Machine

/-! ### The first zeroing -/

/-- Sample memory, and whether it has been initialised: what only the zeroing writes together (R41, R133). -/
def State.store (s : State) : Memory × Bool := (s.mem, s.bufsInit)

/-- From `s` to `t` sample memory stays, or the first zeroing happens (R133). -/
def StoreStep (s t : State) : Prop :=
  t.mem = s.mem ∨ (s.bufsInit = false ∧ t.bufsInit = true ∧ t.mem = (zeroBuffers s).mem)

theorem StoreStep.of_store {s t : State} (h : t.store = s.store) : StoreStep s t := .inl (congrArg Prod.fst h)

/-- What follows the zeroing within the same step leaves the store alone. -/
theorem StoreStep.trans_store {s t u : State} (h : StoreStep s t) (hu : u.store = t.store) : StoreStep s u := by
  obtain ⟨hmem, hinit⟩ := Prod.mk.inj hu
  exact h.imp hmem.trans fun ⟨hfirst, hafter, hzero⟩ => ⟨hfirst, hinit.trans hafter, hmem.trans hzero⟩

theorem OnlyBus.store {s t : State} (h : OnlyBus s t) : t.store = s.store := by
  obtain ⟨sr, x, tr, rfl⟩ := h
  rfl

/-! How a procedure's answer is recorded does not touch the store (R56, R211). -/

theorem settleSetup_store (rate : BitVec 24) (r : ProcResult SetupPos) :
    (settleSetup rate r).store = r.state.store := by
  cases r <;> rfl

theorem settleStart_store (r : ProcResult (Bool × Nat)) : (settleStart r).store = r.state.store := by
  cases r <;> rfl

theorem settleTxn_store (t : Txn) (r : EngineResult) : (settleTxn t r).store = r.state.store := by
  cases r <;> rfl

theorem settleCorrect_store (r : ProcResult CodecRun) : (settleCorrect r).store = r.state.store := by
  cases r <;> rfl

theorem settleRecoverySetup_store (rate : BitVec 24) (r : ProcResult SetupPos) :
    (settleRecoverySetup rate r).store = r.state.store := by
  cases r <;> rfl

theorem recoverySucceed_store (s : State) : (recoverySucceed s).store = s.store := by
  unfold recoverySucceed
  dsimp only
  split <;> rfl

theorem settleRecoveryStart_store (r : ProcResult (Bool × Nat)) :
    (settleRecoveryStart r).store = r.state.store := by
  cases r with
  | going pos t => rfl
  | done t => exact recoverySucceed_store t
  | failed e t => rfl

/-! Of the procedures only `do_setup` writes memory, where its position is the zeroing (R130). -/

theorem setupBegin_store (rate : BitVec 24) (s : State) : (setupBegin rate s).state.store = s.store := by
  rcases setupBegin_cases rate s with ⟨-, e⟩ | ⟨-, -, e⟩ | ⟨r, -, -, e⟩ <;> rw [e] <;> rfl

theorem startBegin_store (s : State) : (startBegin s).state.store = s.store := by
  rcases startBegin_cases s with ⟨-, e⟩ | ⟨-, e⟩ <;> rw [e] <;> rfl

theorem startStep_store (ws0 : Bool) (left : Nat) (s : State) : (startStep ws0 left s).state.store = s.store := by
  rcases startStep_cases ws0 left s with ⟨-, e⟩ | ⟨-, -, e⟩ | ⟨-, -, e⟩ <;> rw [e] <;> rfl

theorem setupStep_storeStep {rate : BitVec 24} {pos : SetupPos} {s : State} (h : SetupPosOk s rate pos) :
    StoreStep s (setupStep rate pos s).state := by
  obtain ⟨-, -, hfirst, -⟩ := h
  rcases setupStep_cases rate pos s with ⟨_, -, -, e⟩ | ⟨_, -, -, -, e⟩ | ⟨_, -, -, -, e⟩ | ⟨-, e⟩
      | ⟨c, c', t, -, hc, e⟩ | ⟨c, t, -, hc, e⟩ | ⟨c, err, t, -, hc, e⟩ | ⟨-, -, e⟩ | ⟨-, -, e⟩
      | ⟨hzero, e⟩ | ⟨-, e⟩ <;> rw [e]
  · exact .of_store rfl
  · exact .of_store rfl
  · exact .of_store rfl
  · exact .of_store rfl
  · exact .of_store (onlyBus_of_codecStep hc).store
  · exact .of_store (onlyBus_of_codecStep hc).store
  · exact .of_store (onlyBus_of_codecStep hc).store
  · exact .of_store rfl
  · exact .of_store rfl
  · exact .inr ⟨hfirst hzero, rfl, rfl⟩
  · exact .of_store rfl

theorem Inv.fgStep_storeStep {s : State} (h : Inv s) : StoreStep s (fgStep s) := by
  unfold fgStep
  split
  next k hk =>
    cases k with
    | setup rate pos =>
      exact (setupStep_storeStep (h.foreground.setup_ok rate pos hk)).trans_store (settleSetup_store rate _)
    | start ws0 left => exact .of_store ((settleStart_store _).trans (startStep_store ws0 left s))
    | transaction r => exact .of_store ((settleTxn_store r.txn _).trans (engineStep_onlyBus r s).store)
  next => exact .of_store rfl

theorem Inv.recoveryStep_storeStep {s : State} (h : Inv s) : StoreStep s (recoveryStep s) := by
  unfold recoveryStep
  split
  next k hk =>
    cases k with
    | correct c => exact .of_store ((settleCorrect_store _).trans (codecStep_onlyBus c s).store)
    | teardown => exact .of_store rfl
    | setupBegin => exact .of_store ((settleRecoverySetup_store s.cfgRate _).trans (setupBegin_store s.cfgRate s))
    | setup rate pos =>
      exact (setupStep_storeStep (h.dispatcher.setup_ok rate pos hk)).trans_store (settleRecoverySetup_store rate _)
    | startBegin => exact .of_store ((settleRecoveryStart_store _).trans (startBegin_store s))
    | startWait ws0 left => exact .of_store ((settleRecoveryStart_store _).trans (startStep_store ws0 left s))
    | fail e => exact .of_store rfl
  next => exact .of_store rfl

/-! ### The moves that keep memory -/

theorem exec_mem {i : Instr} {s t : State} (h : exec i s = .next t) : t.mem = s.mem := by
  cases i with
  | setup rate =>
    cases h
    exact congrArg Prod.fst ((settleSetup_store rate _).trans (setupBegin_store rate s))
  | start =>
    cases h
    exact congrArg Prod.fst ((settleStart_store _).trans (startBegin_store s))
  | disable =>
    cases h
    rfl
  | writeRegister | readRegister =>
    cases h
    unfold beginRegisterOp
    split <;> rfl
  | getProperty sel =>
    cases h
    split <;> rfl
  | getStatus sel =>
    cases h
    rfl
  | clearUnderrun =>
    cases h
    rfl

/-- No host command changes a byte at its acceptance (R70, R206). -/
theorem accept_mem {w : Word32} {s t : State} (h : accept w s = .next t) : t.mem = s.mem := by
  rcases accept_cases w s with ⟨i, -, e⟩ | ⟨_, -, e⟩ <;> rw [e] at h
  · exact exec_mem (s := { s with cmd := w }) h
  · cases h
    rfl

theorem dispEntry_mem (s : State) : (dispEntry s).mem = s.mem := by
  have hcases := dispEntry_cases s
  obtain ⟨fl, te, dme, rh, db, -, -, e⟩ := dispHandoff_cases s
  rw [e] at hcases
  rcases hcases with ⟨-, e⟩ | ⟨-, -, e⟩ | ⟨-, -, e⟩ <;> rw [e] <;> rfl

theorem dispExit_mem (s : State) : (dispExit s).mem = s.mem := by
  unfold dispExit
  dsimp only
  split <;> rfl

theorem txh_mem (s : State) : (txh s).mem = s.mem := by
  obtain ⟨fl, te, dme, -, -, e⟩ := txh_cases s
  rw [e]

theorem dmaTxItem_mem {s t : State} (h : dmaTxItem s = .next t) : t.mem = s.mem := by
  rcases dmaTxItem_cases s with ⟨w, -, e⟩ | ⟨f, -, e⟩ <;> rw [e] at h <;> cases h
  rfl

theorem cbReadStep_mem {i : Nat} {s t : State} (h : cbReadStep i s = .next t) : t.mem = s.mem := by
  rcases cbReadStep_cases i s with ⟨w, -, e⟩ | ⟨f, -, e⟩ <;> rw [e] at h <;> cases h
  rfl

theorem cbAck_mem (b : Byte) (s : State) : (cbAck b s).mem = s.mem := by
  unfold cbAck
  split <;> rfl

theorem dmaError_mem (ch : Channel) (kind : DmaErrorKind) (s : State) : (dmaError ch kind s).mem = s.mem := by
  cases ch <;> cases kind <;> rfl

/-- The moves that can write sample memory: an item received, an item of the callback, the zeroing in a procedure. -/
def mayWrite : Move → Bool
  | .dmaRx _ | .cbWrite _ _ | .fg | .disp => true
  | .command _ | .dispEntry | .dispExit | .cbRead _ | .txh | .feh | .dmaTx | .pllLock | .cbAck _ | .wsToggle
  | .frameError | .dmaError _ _ => false

theorem act_mem {m : Move} {s t : State} (hm : mayWrite m = false) (h : act m s = .next t) : t.mem = s.mem := by
  cases m with
  | command w => exact accept_mem h
  | dispEntry =>
    cases h
    exact dispEntry_mem s
  | dispExit =>
    cases h
    exact dispExit_mem s
  | cbRead i => exact cbReadStep_mem h
  | txh =>
    cases h
    exact txh_mem s
  | dmaTx => exact dmaTxItem_mem h
  | cbAck b =>
    cases h
    exact cbAck_mem b s
  | dmaError ch kind =>
    cases h
    exact dmaError_mem ch kind s
  | feh | pllLock | wsToggle | frameError =>
    cases h
    rfl
  | dmaRx | cbWrite | fg | disp => cases hm

/-! ### Where the writing moves write -/

theorem Memory.eq_of_byteAt_writeItem_ne {m : Memory} {a x : Nat} {w : Item}
    (h : (m.writeItem a w).byteAt x ≠ m.byteAt x) : x = a ∨ x = a + 1 := by
  obtain ⟨-, -, hother⟩ := m.byteAt_writeItem_spec a w
  by_contra hx
  obtain ⟨hlow, hhigh⟩ := not_or.1 hx
  exact h (hother x hlow hhigh)

/-- The zeroing writes every byte of the two buffers and no other (R133). -/
theorem byteAt_zeroBuffers (s : State) (a : Nat) :
    (zeroBuffers s).mem.byteAt a = if inBuffers s.params a then some 0 else s.mem.byteAt a := by
  simp only [zeroBuffers, byteAt_zeroItems, inBuffers, Params.dbufBytesRx, Params.dbufBytesTx, Config.itemBytes]
  by_cases htx : s.params.txBase ≤ a ∧ a < s.params.txBase + 2 * s.params.nTx
  · rw [if_pos htx, if_pos (by omega)]
  · by_cases hrx : s.params.rxBase ≤ a ∧ a < s.params.rxBase + 2 * s.params.nRx
    · rw [if_neg htx, if_pos hrx, if_pos (by omega)]
    · rw [if_neg htx, if_neg hrx, if_neg (by omega)]

theorem StoreStep.zeroed {s t : State} {a : Nat} (h : StoreStep s t) (hne : t.mem.byteAt a ≠ s.mem.byteAt a) :
    s.bufsInit = false ∧ t.bufsInit = true ∧ inBuffers s.params a ∧ t.mem.byteAt a = some 0 := by
  obtain hmem | ⟨hfirst, hafter, hmem⟩ := h
  · exact absurd (congrArg (Memory.byteAt · a) hmem) hne
  · rw [hmem, byteAt_zeroBuffers] at hne ⊢
    by_cases hin : inBuffers s.params a
    · exact ⟨hfirst, hafter, hin, if_pos hin⟩
    · exact absurd (if_neg hin) hne

/-- Settles O41: the four moves that can write, each with its address. -/
theorem onlyTheseStepsWriteMemory : Obligations.OnlyTheseStepsWriteMemory := by
  intro m s t a h ht hne
  rcases take_cases m s with ⟨hen, e⟩ | ⟨-, e⟩ <;> rw [e] at ht
  · cases m with
    | dmaRx w =>
      rw [← e, take_dmaRx h hen w] at ht
      cases ht
      exact .inl ⟨w, rfl, Memory.eq_of_byteAt_writeItem_ne hne⟩
    | cbWrite i w =>
      obtain ⟨hcall, hi⟩ := enabled_cbWrite_iff.1 hen
      rw [← e, take_cbWrite hcall hi w] at ht
      cases ht
      exact .inr (.inl ⟨i, w, rfl, hcall, hi, Memory.eq_of_byteAt_writeItem_ne hne⟩)
    | fg =>
      cases ht
      exact .inr (.inr ⟨.inl rfl, h.fgStep_storeStep.zeroed hne⟩)
    | disp =>
      cases ht
      exact .inr (.inr ⟨.inr rfl, h.recoveryStep_storeStep.zeroed hne⟩)
    | command | dispEntry | dispExit | cbRead | txh | feh | dmaTx | pllLock | cbAck | wsToggle | frameError
    | dmaError =>
      exact absurd (congrArg (Memory.byteAt · a) (act_mem rfl ht)) hne
  · cases ht
    exact absurd rfl hne

end Sys2Proof.Machine

/-! PROOFS. After DISABLE the stream stands still until another command (R76, R137, R262). -/

namespace Sys2Proof.Machine

/-- What DISABLE leaves when no handler is active: the streaming clocks off, every line masked, and nobody inside a
procedure (R137). -/
structure Halted (s : State) : Prop where
  idle : s.dispPhase = .idle
  not_busy : s.fgBusy = false
  clocks_off : s.clocksOn = false
  rx_masked : s.rxLineEn = false
  tx_masked : s.txLineEn = false
  fe_masked : s.feLineEn = false
  ext_off : s.extRxEn = false

theorem doDisable_halted {s : State} (hidle : s.dispPhase = .idle) : Halted (succeed 0 (doDisable s)) :=
  ⟨hidle, rfl, rfl, rfl, rfl, rfl, rfl⟩

/-- `t` differs from `s` at most in the registers that the environment moves on a halted block: the PLL's lock, the
control-bus status and byte, the word-select line (R104, R116, R148). -/
def OnlyPins (s t : State) : Prop :=
  ∃ lock sr b ws, t = { s with pllLocked := lock, cbSr := sr, cbRxByte := b, wsLine := ws }

theorem OnlyPins.refl (s : State) : OnlyPins s s := ⟨_, _, _, _, rfl⟩

theorem OnlyPins.trans {s t u : State} (h : OnlyPins s t) (h' : OnlyPins t u) : OnlyPins s u := by
  obtain ⟨lock, sr, b, ws, rfl⟩ := h
  obtain ⟨lock', sr', b', ws', rfl⟩ := h'
  exact ⟨lock', sr', b', ws', rfl⟩

theorem OnlyPins.halted {s t : State} (h : OnlyPins s t) (hs : Halted s) : Halted t := by
  obtain ⟨lock, sr, b, ws, rfl⟩ := h
  exact { hs with }

section
variable {s : State} (h : Halted s)
include h

theorem Halted.handlerToStart_eq_none : handlerToStart s = none := by
  simp [handlerToStart, irqRx_masked h.rx_masked, irqTx_masked h.tx_masked, irqFe_masked h.fe_masked]

theorem Halted.dmaRx_off : dmaRxEnabled s = false := by simp [dmaRxEnabled, h.clocks_off]

theorem Halted.dmaTx_off : dmaTxEnabled s = false := by simp [dmaTxEnabled, h.clocks_off]

/-- A halted block has a step by the environment only, and that moves its pins only. -/
theorem Halted.take_onlyPins {m : Move} (hm : ∀ w, m ≠ .command w) : ∃ t, take m s = .next t ∧ OnlyPins s t := by
  rcases take_cases m s with ⟨hen, e⟩ | ⟨-, e⟩ <;> rw [e]
  · cases m with
    | command w => exact absurd rfl (hm w)
    | pllLock => exact ⟨_, rfl, _, _, _, _, rfl⟩
    | wsToggle => exact ⟨_, rfl, _, _, _, _, rfl⟩
    | cbAck b =>
      obtain ⟨x, hx, -⟩ := (cbAckEnabled_iff s).1 hen
      exact ⟨_, rfl, _, _, _, _, cbAck_of_wait b hx⟩
    | fg => simp [enabled, h.not_busy] at hen
    | dispEntry | txh | feh => simp [enabled, h.handlerToStart_eq_none] at hen
    | disp | dispExit | cbRead | cbWrite => simp [enabled, h.idle] at hen
    | dmaRx | dmaTx => simp [enabled, h.dmaRx_off, h.dmaTx_off] at hen
    | frameError => simp [enabled, frameErrorEnabled, h.ext_off] at hen
    | dmaError ch kind => cases ch <;> simp [enabled, dmaErrorEnabled, h.clocks_off] at hen
  · exact ⟨s, rfl, .refl s⟩

end

theorem Halted.runMoves_onlyPins {ms : List Move} {s : State} (h : Halted s)
    (hms : ∀ m ∈ ms, ∀ w, m ≠ .command w) : ∃ u, runMoves ms s = .next u ∧ OnlyPins s u := by
  induction ms generalizing s with
  | nil => exact ⟨s, rfl, .refl s⟩
  | cons m ms ih =>
    obtain ⟨hm, hrest⟩ := List.forall_mem_cons.1 hms
    obtain ⟨t, ht, hpins⟩ := h.take_onlyPins hm
    obtain ⟨u, hu, hpins'⟩ := ih (hpins.halted h) hrest
    exact ⟨u, (runMoves_cons_next ht).trans hu, hpins.trans hpins'⟩

/-- Settles O19, by induction on the moves: the block stays halted, and only its pins move. -/
theorem disableStopsTheStream : Obligations.DisableStopsTheStream := by
  intro s t ms hidle ht hms
  cases ht
  have hhalt := doDisable_halted hidle
  obtain ⟨u, hu, hpins⟩ := hhalt.runMoves_onlyPins hms
  have hstill := hpins.halted hhalt
  obtain ⟨lock, sr, b, ws, rfl⟩ := hpins
  exact ⟨_, hu, rfl, rfl, rfl, rfl, rfl, rfl, hstill.dmaRx_off, hstill.dmaTx_off, hstill.handlerToStart_eq_none,
    hstill.idle⟩

end Sys2Proof.Machine

/-! PROOFS. The encoding: each row of the opcode map fixes the bits outside the operand fields, so the decoder and the
encoder invert each other, and an illegal word only reports (R81, R92 to R94, R217). -/

namespace Sys2Proof

/-! ### Rows and fields -/

theorem OpcodeRow.selects_iff {r : OpcodeRow} {w : Word32} : r.selects w = true ↔ w &&& r.mask = r.pattern := beq_iff_eq

/-- The bits that a row's mask has whole are the row's own (R92). -/
theorem OpcodeRow.extractLsb'_of_selects {r : OpcodeRow} {w : Word32} {k n : Nat} (h : r.selects w = true)
    (hmask : r.mask.extractLsb' k n = BitVec.allOnes n) : w.extractLsb' k n = r.pattern.extractLsb' k n := by
  rw [← OpcodeRow.selects_iff.1 h, BitVec.extractLsb'_and, hmask, BitVec.and_allOnes]

/-- `opcode = cmd[31:28]` (R81). -/
def opcodeField (w : Word32) : BitVec 4 := w.extractLsb' 28 4

theorem opcodeField_toNat (w : Word32) : (opcodeField w).toNat = w.toNat / 2 ^ 28 := by
  rw [opcodeField, BitVec.extractLsb'_toNat, Nat.shiftRight_eq_div_pow]
  omega

theorem opcodeDefined_iff (w : Word32) : opcodeDefined w = true ↔ 1 ≤ w.toNat / 2 ^ 28 ∧ w.toNat / 2 ^ 28 ≤ 8 := by
  rw [← opcodeField_toNat]
  simp only [opcodeDefined, opcodeField, Bool.and_eq_true, decide_eq_true_eq]

theorem opcodeField_of_selects {r : OpcodeRow} {w : Word32} (hr : r ∈ OpcodeRow.table) (h : r.selects w = true) :
    opcodeField w = opcodeField r.pattern := by
  have hmasks : ∀ r ∈ OpcodeRow.table, r.mask.extractLsb' 28 4 = BitVec.allOnes 4 := by decide
  exact OpcodeRow.extractLsb'_of_selects h (hmasks r hr)

theorem opcodeDefined_of_selects {r : OpcodeRow} {w : Word32} (hr : r ∈ OpcodeRow.table) (h : r.selects w = true) :
    opcodeDefined w = true := by
  have hdefined : ∀ r ∈ OpcodeRow.table, opcodeDefined r.pattern = true := by decide
  have hop := congrArg BitVec.toNat (opcodeField_of_selects hr h)
  rw [opcodeField_toNat, opcodeField_toNat] at hop
  rw [opcodeDefined_iff, hop, ← opcodeDefined_iff]
  exact hdefined r hr

/-- The rows have different opcodes, so no word selects two of them (R92). -/
theorem OpcodeRow.eq_of_selects {a b : OpcodeRow} {w : Word32} (ha : a ∈ OpcodeRow.table) (hb : b ∈ OpcodeRow.table)
    (hwa : a.selects w = true) (hwb : b.selects w = true) : a = b := by
  have hdiffer : ∀ a ∈ OpcodeRow.table, ∀ b ∈ OpcodeRow.table,
      opcodeField a.pattern = opcodeField b.pattern → a = b := by decide
  exact hdiffer a ha b hb ((opcodeField_of_selects ha hwa).symm.trans (opcodeField_of_selects hb hwb))

theorem Instr.row_mem_table (i : Instr) : i.row ∈ OpcodeRow.table := by
  cases i <;> simp [Instr.row, OpcodeRow.table]

theorem Instr.row_selects_encode (i : Instr) : i.row.selects (encode i) = true := by
  cases i with
  | setup rate => exact (Laws.WordSelectsRow.setup rate).2
  | start => exact Laws.WordSelectsRow.start.2
  | disable => exact Laws.WordSelectsRow.disable.2
  | writeRegister dev reg val => exact (Laws.WordSelectsRow.writeRegister dev reg val).2
  | readRegister dev reg => exact (Laws.WordSelectsRow.readRegister dev reg).2
  | getProperty sel => exact (Laws.WordSelectsRow.getProperty sel).2
  | getStatus sel => exact (Laws.WordSelectsRow.getStatus sel).2
  | clearUnderrun => exact Laws.WordSelectsRow.clearUnderrun.2

/-- The operation of `i` with the operands that a word's fields hold (R81). -/
def Instr.reread (w : Word32) : Instr → Instr
  | .setup _ => .setup (rateField w)
  | .start => .start
  | .disable => .disable
  | .writeRegister _ _ _ => .writeRegister (devField w) (regField w) (valField w)
  | .readRegister _ _ => .readRegister (devField w) (regField w)
  | .getProperty _ => .getProperty (propertyField w)
  | .getStatus _ => .getStatus (statusField w)
  | .clearUnderrun => .clearUnderrun

theorem Instr.row_reread (w : Word32) (i : Instr) : (i.reread w).row = i.row := by
  cases i <;> rfl

theorem Instr.reread_reread (w : Word32) (i : Instr) : (i.reread w).reread w = i.reread w := by
  cases i <;> rfl

section
open BitVec

/-- Each field of the word the encoder writes holds its operand (R81). -/
theorem Instr.reread_encode (i : Instr) : i.reread (encode i) = i := by
  cases i with
  | setup rate => simp only [reread, encode, rateField, extractLsb'_append_eq_right]
  | start => rfl
  | disable => rfl
  | writeRegister dev reg val =>
    have hdev : devField (encode (.writeRegister dev reg val)) = dev := by
      rw [devField, encode, extractLsb'_append_eq_of_le (by decide), extractLsb'_append_eq_of_le (by decide)]
      exact extractLsb'_append_eq_right
    have hreg : regField (encode (.writeRegister dev reg val)) = reg := by
      rw [regField, encode, extractLsb'_append_eq_of_le (by decide)]
      exact extractLsb'_append_eq_right
    have hval : valField (encode (.writeRegister dev reg val)) = val := extractLsb'_append_eq_right
    simp only [reread, hdev, hreg, hval]
  | readRegister dev reg =>
    have hdev : devField (encode (.readRegister dev reg)) = dev := by
      rw [devField, encode, extractLsb'_append_eq_of_le (by decide), extractLsb'_append_eq_of_le (by decide)]
      exact extractLsb'_append_eq_right
    have hreg : regField (encode (.readRegister dev reg)) = reg := by
      rw [regField, encode, extractLsb'_append_eq_of_le (by decide)]
      exact extractLsb'_append_eq_right
    simp only [reread, hdev, hreg]
  | getProperty sel => simp only [reread, encode, propertyField, extractLsb'_append_eq_right]
  | getStatus sel => simp only [reread, encode, statusField, extractLsb'_append_eq_right]
  | clearUnderrun => rfl

/-- A word is its high bits and its low bits side by side. -/
theorem high_append_low {n k : Nat} (w : BitVec (n + k)) : w.extractLsb' k n ++ w.extractLsb' 0 k = w :=
  (extractLsb'_append_extractLsb'_eq_extractLsb' (Nat.zero_add k).symm).trans extractLsb'_eq_self

/-- The fields of the register operations, from the top bit down (R81). -/
theorem registerFields_append (w : Word32) : w.extractLsb' 23 9 ++ devField w ++ regField w ++ valField w = w := by
  have hdev : w.extractLsb' 23 9 ++ devField w = w.extractLsb' 16 16 :=
    extractLsb'_append_extractLsb'_eq_extractLsb' rfl
  have hreg : w.extractLsb' 16 16 ++ regField w = w.extractLsb' 8 24 :=
    extractLsb'_append_extractLsb'_eq_extractLsb' rfl
  rw [hdev, hreg]
  exact high_append_low (n := 24) (k := 8) w

/-- A word that selects the row is its fixed bits and its operand fields side by side (R81, R92, R94). -/
theorem Instr.encode_reread {i : Instr} {w : Word32} (h : i.row.selects w = true) : encode (i.reread w) = w := by
  cases i with
  | setup rate =>
    have hfixed : w.extractLsb' 24 8 = 0x1#4 ++ 0#4 :=
      (OpcodeRow.extractLsb'_of_selects (r := .setup) h (by decide)).trans (by decide)
    rw [reread, encode, ← hfixed]
    exact high_append_low (n := 8) (k := 24) w
  | start => exact (Machine.eq_of_selects_full h).symm
  | disable => exact (Machine.eq_of_selects_full h).symm
  | writeRegister dev reg val =>
    have hfixed : w.extractLsb' 23 9 = 0x4#4 ++ 0#5 :=
      (OpcodeRow.extractLsb'_of_selects (r := .writeRegister) h (by decide)).trans (by decide)
    rw [reread, encode, ← hfixed]
    exact registerFields_append w
  | readRegister dev reg =>
    have hfixed : w.extractLsb' 23 9 = 0x5#4 ++ 0#5 :=
      (OpcodeRow.extractLsb'_of_selects (r := .readRegister) h (by decide)).trans (by decide)
    have hzero : w.extractLsb' 0 8 = 0#8 :=
      (OpcodeRow.extractLsb'_of_selects (r := .readRegister) h (by decide)).trans (by decide)
    rw [reread, encode, ← hfixed, ← hzero]
    exact registerFields_append w
  | getProperty sel =>
    have hfixed : w.extractLsb' 2 30 = 0x6#4 ++ 0#26 :=
      (OpcodeRow.extractLsb'_of_selects (r := .getProperty) h (by decide)).trans (by decide)
    rw [reread, encode, ← hfixed]
    exact high_append_low (n := 30) (k := 2) w
  | getStatus sel =>
    have hfixed : w.extractLsb' 4 28 = 0x7#4 ++ 0#24 :=
      (OpcodeRow.extractLsb'_of_selects (r := .getStatus) h (by decide)).trans (by decide)
    rw [reread, encode, ← hfixed]
    exact high_append_low (n := 28) (k := 4) w
  | clearUnderrun => exact (Machine.eq_of_selects_full h).symm

end

/-! ### The decoder -/

/-- The decoder reads the fields of the row a word selects: the tests before that row's fail (R92). -/
theorem decode_of_selects {i : Instr} {w : Word32} (h : i.row.selects w = true) : decode w = .ok (i.reread w) := by
  have hsel : ∀ r ∈ OpcodeRow.table, r.selects w = (r == i.row) := fun r hr => by
    refine Bool.eq_iff_iff.2 ⟨fun hw => beq_iff_eq.2 (OpcodeRow.eq_of_selects hr i.row_mem_table hw h), fun e => ?_⟩
    rw [beq_iff_eq.1 e]
    exact h
  unfold decode
  rw [hsel .setup (by decide), hsel .start (by decide), hsel .disable (by decide), hsel .writeRegister (by decide),
    hsel .readRegister (by decide), hsel .getProperty (by decide), hsel .getStatus (by decide),
    hsel .clearUnderrun (by decide)]
  cases i <;> rfl

theorem decode_of_forall_selects_eq_false {w : Word32} (h : ∀ r ∈ OpcodeRow.table, r.selects w = false) :
    decode w = .error (if opcodeDefined w then .mustBeZero else .reservedOpcode) := by
  simp only [OpcodeRow.table, List.forall_mem_cons] at h
  obtain ⟨h1, h2, h3, h4, h5, h6, h7, h8, -⟩ := h
  simp only [decode, h1, h2, h3, h4, h5, h6, h7, h8, Bool.false_eq_true, if_false]
  split <;> rfl

theorem OpcodeRow.exists_row_eq {r : OpcodeRow} (hr : r ∈ OpcodeRow.table) : ∃ i : Instr, i.row = r := by
  simp only [OpcodeRow.table, List.mem_cons, List.not_mem_nil, or_false] at hr
  rcases hr with rfl | rfl | rfl | rfl | rfl | rfl | rfl | rfl
  · exact ⟨.setup 0, rfl⟩
  · exact ⟨.start, rfl⟩
  · exact ⟨.disable, rfl⟩
  · exact ⟨.writeRegister 0 0 0, rfl⟩
  · exact ⟨.readRegister 0 0, rfl⟩
  · exact ⟨.getProperty 0, rfl⟩
  · exact ⟨.getStatus 0, rfl⟩
  · exact ⟨.clearUnderrun, rfl⟩

/-- What the decoder can do with a word: read a selected row's fields, or reject a word that selects none, by its opcode
(R92 to R94). -/
theorem decode_cases (w : Word32) :
    (∃ i, decode w = .ok i ∧ i.row.selects w = true ∧ i.reread w = i)
      ∨ ((∀ r ∈ OpcodeRow.table, r.selects w = false)
          ∧ decode w = .error (if opcodeDefined w then .mustBeZero else .reservedOpcode)) := by
  by_cases hnone : ∀ r ∈ OpcodeRow.table, r.selects w = false
  · exact .inr ⟨hnone, decode_of_forall_selects_eq_false hnone⟩
  · simp only [not_forall, Bool.not_eq_false] at hnone
    obtain ⟨r, hr, hsel⟩ := hnone
    obtain ⟨i, rfl⟩ := OpcodeRow.exists_row_eq hr
    exact .inl ⟨i.reread w, decode_of_selects hsel, by rw [Instr.row_reread]; exact hsel, Instr.reread_reread w i⟩

theorem selects_of_decode {w : Word32} {i : Instr} (h : decode w = .ok i) :
    i.row.selects w = true ∧ i.reread w = i := by
  rcases decode_cases w with ⟨j, hj, hread⟩ | ⟨-, herr⟩
  · cases hj.symm.trans h
    exact hread
  · cases herr.symm.trans h

/-- Settles O1: the encoded word selects the instruction's row, and its fields hold the operands. -/
theorem decodeOfEncode : Obligations.DecodeOfEncode := by
  intro i
  rw [decode_of_selects i.row_selects_encode, i.reread_encode]

/-- Settles O2: the fixed bits are the row's, and the other bits are the operands. -/
theorem encodeOfDecode : Obligations.EncodeOfDecode := by
  intro w i h
  obtain ⟨hsel, hread⟩ := selects_of_decode h
  rw [← hread]
  exact Instr.encode_reread hsel

/-- No row selects the word, in the two ways of saying it (R92). -/
theorem forall_selects_eq_false_iff (w : Word32) :
    (∀ r ∈ OpcodeRow.table, r.selects w = false) ↔ ∀ r ∈ OpcodeRow.table, w &&& r.mask ≠ r.pattern :=
  forall₂_congr fun _ _ => Bool.eq_false_iff.trans (not_congr OpcodeRow.selects_iff)

theorem decode_eq_reservedOpcode_iff (w : Word32) :
    decode w = .error .reservedOpcode ↔ opcodeDefined w = false := by
  rcases decode_cases w with ⟨i, hi, hsel, -⟩ | ⟨-, herr⟩
  · simp [hi, opcodeDefined_of_selects i.row_mem_table hsel]
  · cases hop : opcodeDefined w <;> simp [herr, hop]

theorem decode_eq_mustBeZero_iff (w : Word32) :
    decode w = .error .mustBeZero ↔ opcodeDefined w = true ∧ ∀ r ∈ OpcodeRow.table, r.selects w = false := by
  rcases decode_cases w with ⟨i, hi, hsel, -⟩ | ⟨hnone, herr⟩
  · have hsome : ¬∀ r ∈ OpcodeRow.table, r.selects w = false := fun hnone => by
      simp [hnone i.row i.row_mem_table] at hsel
    simp [hi, hsome]
  · cases hop : opcodeDefined w <;> simp [herr, hop]
    exact hnone

/-- The opcode of R93: none of the eight defined ones. -/
theorem opcodeDefined_eq_false_iff (w : Word32) :
    opcodeDefined w = false ↔ w.toNat / 2 ^ 28 = 0 ∨ 9 ≤ w.toNat / 2 ^ 28 := by
  rw [Bool.eq_false_iff, Ne, opcodeDefined_iff]
  omega

/-- Settles O3: reason by reason. -/
theorem decodeRejectsIllegalWords : Obligations.DecodeRejectsIllegalWords := by
  intro w
  rw [decode_eq_reservedOpcode_iff, decode_eq_mustBeZero_iff, opcodeDefined_eq_false_iff, opcodeDefined_iff,
    forall_selects_eq_false_iff]
  exact ⟨.rfl, .rfl⟩

/-- Settles O4: the rows differ in their opcodes, and the decoder takes the row a word selects. -/
theorem opcodeRowsDisjoint : Obligations.OpcodeRowsDisjoint := by
  intro w
  simp only [← OpcodeRow.selects_iff]
  refine ⟨fun a ha b hb => OpcodeRow.eq_of_selects ha hb, ⟨?_, ?_⟩, fun i hi => ?_⟩
  · rintro ⟨r, hr, hsel⟩
    rcases decode_cases w with ⟨i, hi, -⟩ | ⟨hnone, -⟩
    · exact ⟨i, hi⟩
    · simp [hnone r hr] at hsel
  · rintro ⟨i, hi⟩
    exact ⟨i.row, i.row_mem_table, (selects_of_decode hi).1⟩
  · exact ⟨i.row_mem_table, (selects_of_decode hi).1⟩

/-- Settles O5: the legal words are encodings, and the illegal ones are so by their opcode or their zero fields. -/
theorem writtenWordsDecode : Obligations.WrittenWordsDecode := by
  refine ⟨decodeOfEncode (.setup 44100), decodeOfEncode .start, decodeOfEncode .disable,
    decodeOfEncode (.writeRegister 0x1A 0x07 0x42), decodeOfEncode (.readRegister 0x1A 0x07),
    decodeOfEncode (.getProperty 1), decodeOfEncode (.getStatus 11), decodeOfEncode .clearUnderrun, ?_, ?_⟩
  · exact (decode_eq_mustBeZero_iff _).2 (by decide)
  · exact (decode_eq_reservedOpcode_iff _).2 (by decide)

end Sys2Proof

namespace Sys2Proof.Machine

/-! ### An accepted illegal word -/

theorem take_command {w : Word32} {s : State} (hacc : acceptsCommand s = true) :
    take (.command w) s = accept w s := take_of_enabled hacc

theorem accept_of_illegal {w : Word32} (h : ∀ i, decode w ≠ .ok i) (s : State) :
    accept w s = .next (raiseError .illegalCommand { s with cmd := w }) := by
  rcases accept_cases w s with ⟨i, hi, -⟩ | ⟨_, -, e⟩
  · exact absurd hi (h i)
  · exact e

/-- Settles O8: the word does not decode, and an accepting block has no operation whose end the report could be. -/
theorem illegalCommandOnlyReports : Obligations.IllegalCommandOnlyReports := by
  refine ⟨rfl, fun s w rest hin hacc hproc hill => ?_⟩
  have hnot : ∀ i, decode w ≠ .ok i := fun i hi => by
    have hsel := (selects_of_decode hi).1
    rcases hill with hop | hnone
    · have hdef := opcodeDefined_of_selects i.row_mem_table hsel
      simp [(opcodeDefined_eq_false_iff w).2 hop] at hdef
    · exact hnone i.row i.row_mem_table (OpcodeRow.selects_iff.1 hsel)
  have hbusy : s.fgBusy = false := ((acceptsCommand_iff s).1 hacc).1
  rw [step_eq_of_cons hin, take_command (s := { s with inputs := rest }) hacc, accept_of_illegal hnot]
  simp only [raiseError, hbusy, hproc]

end Sys2Proof.Machine

/-! PROOFS. The textual form: the words of each command, the selectors' numbers, and what has no words (R97, R98, R202,
R204). -/

namespace Sys2Proof

/-! ### Encoded words as numbers -/

theorem toNat_append_eq_add {m n : Nat} (x : BitVec m) (y : BitVec n) :
    (x ++ y).toNat = x.toNat * 2 ^ n + y.toNat := by
  rw [BitVec.toNat_append, ← Nat.shiftLeft_add_eq_or_of_lt y.isLt, Nat.shiftLeft_eq]

theorem eq_ofNat_of_toNat_eq {w : Word32} {n : Nat} (h : w.toNat = n) : w = BitVec.ofNat 32 n := by
  rw [← h, BitVec.ofNat_toNat, BitVec.setWidth_eq]

theorem encode_setup_ofNat {r : Nat} (hr : r < 2 ^ 24) :
    encode (.setup (BitVec.ofNat 24 r)) = BitVec.ofNat 32 (0x10000000 + r) := by
  refine eq_ofNat_of_toNat_eq ?_
  simp only [encode, toNat_append_eq_add, BitVec.toNat_ofNat]
  omega

theorem encode_readRegister_ofNat {d r : Nat} (hd : d < 2 ^ 7) (hr : r < 2 ^ 8) :
    encode (.readRegister (BitVec.ofNat 7 d) (BitVec.ofNat 8 r))
      = BitVec.ofNat 32 (0x50000000 + d * 2 ^ 16 + r * 2 ^ 8) := by
  refine eq_ofNat_of_toNat_eq ?_
  simp only [encode, toNat_append_eq_add, BitVec.toNat_ofNat]
  omega

theorem encode_writeRegister_ofNat {d r v : Nat} (hd : d < 2 ^ 7) (hr : r < 2 ^ 8) (hv : v < 2 ^ 8) :
    encode (.writeRegister (BitVec.ofNat 7 d) (BitVec.ofNat 8 r) (BitVec.ofNat 8 v))
      = BitVec.ofNat 32 (0x40000000 + d * 2 ^ 16 + r * 2 ^ 8 + v) := by
  refine eq_ofNat_of_toNat_eq ?_
  simp only [encode, toNat_append_eq_add, BitVec.toNat_ofNat]
  omega

theorem encode_getProperty_ofNat {s : Nat} (hs : s < 4) :
    encode (.getProperty (BitVec.ofNat 2 s)) = BitVec.ofNat 32 (0x60000000 + s) := by
  refine eq_ofNat_of_toNat_eq ?_
  simp only [encode, toNat_append_eq_add, BitVec.toNat_ofNat]
  omega

theorem encode_getStatus_ofNat {s : Nat} (hs : s < 16) :
    encode (.getStatus (BitVec.ofNat 4 s)) = BitVec.ofNat 32 (0x70000000 + s) := by
  refine eq_ofNat_of_toNat_eq ?_
  simp only [encode, toNat_append_eq_add, BitVec.toNat_ofNat]
  omega

theorem PropertyName.selector_ofSelector (sel : BitVec 2) : (PropertyName.ofSelector sel).selector = sel := by
  revert sel
  decide

theorem StatusName.selector_ofSelector (sel : BitVec 4) : (StatusName.ofSelector sel).selector = sel := by
  revert sel
  decide

/-! ### The assembler -/

namespace TextCommand

/-- The operands that each mnemonic takes, in number and kind (R97). -/
def OperandsFit (c : TextCommand) : Prop :=
  ((c.mnemonic = .setup ∨ c.mnemonic = .audioHwSetup ∨ c.mnemonic = .restart) ∧ ∃ r, c.operands = [.num r])
    ∨ ((c.mnemonic = .start ∨ c.mnemonic = .disable ∨ c.mnemonic = .clearUnderrun) ∧ c.operands = [])
    ∨ (c.mnemonic = .writeRegister ∧ ∃ d r v, c.operands = [.num d, .num r, .num v])
    ∨ (c.mnemonic = .readRegister ∧ ∃ d r, c.operands = [.num d, .num r])
    ∨ (c.mnemonic = .getProperty ∧ ((∃ s, c.operands = [.num s]) ∨ ∃ p, c.operands = [.property p]))
    ∨ (c.mnemonic = .getStatus ∧ ((∃ s, c.operands = [.num s]) ∨ ∃ p, c.operands = [.status p]))

theorem operandsFit_of_wellFormed {c : TextCommand} (h : c.wellFormed = true) : c.OperandsFit := by
  unfold wellFormed at h
  split at h
  next r hm ho => exact .inl ⟨.inl hm, r, ho⟩
  next r hm ho => exact .inl ⟨.inr (.inl hm), r, ho⟩
  next r hm ho => exact .inl ⟨.inr (.inr hm), r, ho⟩
  next hm ho => exact .inr (.inl ⟨.inl hm, ho⟩)
  next hm ho => exact .inr (.inl ⟨.inr (.inl hm), ho⟩)
  next hm ho => exact .inr (.inl ⟨.inr (.inr hm), ho⟩)
  next d r v hm ho => exact .inr (.inr (.inl ⟨hm, d, r, v, ho⟩))
  next d r hm ho => exact .inr (.inr (.inr (.inl ⟨hm, d, r, ho⟩)))
  next s hm ho => exact .inr (.inr (.inr (.inr (.inl ⟨hm, .inl ⟨s, ho⟩⟩))))
  next p hm ho => exact .inr (.inr (.inr (.inr (.inl ⟨hm, .inr ⟨p, ho⟩⟩))))
  next s hm ho => exact .inr (.inr (.inr (.inr (.inr ⟨hm, .inl ⟨s, ho⟩⟩))))
  next p hm ho => exact .inr (.inr (.inr (.inr (.inr ⟨hm, .inr ⟨p, ho⟩⟩))))
  next => cases h

theorem assemble_eq_none {c : TextCommand} (h : c.wellFormed = false) : c.assemble = none := by
  rw [assemble, h]
  exact if_neg Bool.false_ne_true

/-- The assembler has a line for every well-formed command and none for another. -/
theorem isSome_assemble (c : TextCommand) : c.assemble.isSome = c.wellFormed := by
  cases h : c.wellFormed with
  | false => rw [assemble_eq_none h, Option.isSome_none]
  | true =>
    rw [assemble, if_pos h]
    obtain ⟨m, os⟩ := c
    rcases operandsFit_of_wellFormed h with ⟨rfl | rfl | rfl, r, rfl⟩ | ⟨rfl | rfl | rfl, rfl⟩ | ⟨rfl, d, r, v, rfl⟩
      | ⟨rfl, d, r, rfl⟩ | ⟨rfl, ⟨s, rfl⟩ | ⟨p, rfl⟩⟩ | ⟨rfl, ⟨s, rfl⟩ | ⟨p, rfl⟩⟩ <;> rfl

/-! What each numeric command assembles to, its operands in range. -/

section
variable {d r v s : Nat}

theorem assemble_setup (hr : r < 2 ^ 24) : assemble ⟨.setup, [.num r]⟩ = some [.setup (BitVec.ofNat 24 r)] :=
  if_pos (decide_eq_true hr)

theorem assemble_audioHwSetup (hr : r < 2 ^ 24) :
    assemble ⟨.audioHwSetup, [.num r]⟩ = some [.setup (BitVec.ofNat 24 r)] :=
  if_pos (decide_eq_true hr)

theorem assemble_restart (hr : r < 2 ^ 24) :
    assemble ⟨.restart, [.num r]⟩ = some [.disable, .setup (BitVec.ofNat 24 r), .start] :=
  if_pos (decide_eq_true hr)

theorem wellFormed_readRegister : wellFormed ⟨.readRegister, [.num d, .num r]⟩ = true ↔ d < 2 ^ 7 ∧ r < 2 ^ 8 := by
  simp only [wellFormed, Bool.and_eq_true, decide_eq_true_eq]

theorem wellFormed_writeRegister :
    wellFormed ⟨.writeRegister, [.num d, .num r, .num v]⟩ = true ↔ d < 2 ^ 7 ∧ r < 2 ^ 8 ∧ v < 2 ^ 8 := by
  simp only [wellFormed, Bool.and_eq_true, decide_eq_true_eq, and_assoc]

theorem assemble_readRegister (hd : d < 2 ^ 7) (hr : r < 2 ^ 8) :
    assemble ⟨.readRegister, [.num d, .num r]⟩ = some [.readRegister (BitVec.ofNat 7 d) (BitVec.ofNat 8 r)] :=
  if_pos (wellFormed_readRegister.2 ⟨hd, hr⟩)

theorem assemble_writeRegister (hd : d < 2 ^ 7) (hr : r < 2 ^ 8) (hv : v < 2 ^ 8) :
    assemble ⟨.writeRegister, [.num d, .num r, .num v]⟩
      = some [.writeRegister (BitVec.ofNat 7 d) (BitVec.ofNat 8 r) (BitVec.ofNat 8 v)] :=
  if_pos (wellFormed_writeRegister.2 ⟨hd, hr, hv⟩)

theorem assemble_getProperty (hs : s < 4) :
    assemble ⟨.getProperty, [.num s]⟩ = some [.getProperty (BitVec.ofNat 2 s)] :=
  if_pos (decide_eq_true hs)

theorem assemble_getStatus (hs : s < 16) :
    assemble ⟨.getStatus, [.num s]⟩ = some [.getStatus (BitVec.ofNat 4 s)] :=
  if_pos (decide_eq_true hs)

/-! No words for a number out of range. -/

theorem assemble_rate_eq_none (hr : r ≥ 2 ^ 24) :
    assemble ⟨.setup, [.num r]⟩ = none ∧ assemble ⟨.audioHwSetup, [.num r]⟩ = none
      ∧ assemble ⟨.restart, [.num r]⟩ = none := by
  have hout : decide (r < 2 ^ 24) = false := decide_eq_false (Nat.not_lt.2 hr)
  exact ⟨assemble_eq_none hout, assemble_eq_none hout, assemble_eq_none hout⟩

theorem assemble_readRegister_eq_none (h : d ≥ 2 ^ 7 ∨ r ≥ 2 ^ 8) :
    assemble ⟨.readRegister, [.num d, .num r]⟩ = none := by
  refine assemble_eq_none (Bool.eq_false_iff.2 (mt wellFormed_readRegister.1 ?_))
  omega

theorem assemble_writeRegister_eq_none (h : d ≥ 2 ^ 7 ∨ r ≥ 2 ^ 8 ∨ v ≥ 2 ^ 8) :
    assemble ⟨.writeRegister, [.num d, .num r, .num v]⟩ = none := by
  refine assemble_eq_none (Bool.eq_false_iff.2 (mt wellFormed_writeRegister.1 ?_))
  omega

theorem assemble_getProperty_eq_none (hs : s ≥ 4) : assemble ⟨.getProperty, [.num s]⟩ = none :=
  assemble_eq_none (decide_eq_false (Nat.not_lt.2 hs))

theorem assemble_getStatus_eq_none (hs : s ≥ 16) : assemble ⟨.getStatus, [.num s]⟩ = none :=
  assemble_eq_none (decide_eq_false (Nat.not_lt.2 hs))

end

/-- An instruction's text assembles to the instruction (R97). -/
theorem assemble_text (i : Instr) : i.text.assemble = some [i] := by
  cases i with
  | setup rate => simp only [Instr.text, assemble_setup rate.isLt, BitVec.ofNat_toNat, BitVec.setWidth_eq]
  | start => rfl
  | disable => rfl
  | writeRegister dev reg val =>
    simp only [Instr.text, assemble_writeRegister dev.isLt reg.isLt val.isLt, BitVec.ofNat_toNat, BitVec.setWidth_eq]
  | readRegister dev reg =>
    simp only [Instr.text, assemble_readRegister dev.isLt reg.isLt, BitVec.ofNat_toNat, BitVec.setWidth_eq]
  | getProperty sel => exact congrArg (fun n => some [Instr.getProperty n]) (PropertyName.selector_ofSelector sel)
  | getStatus sel => exact congrArg (fun n => some [Instr.getStatus n]) (StatusName.selector_ofSelector sel)
  | clearUnderrun => rfl

end TextCommand

/-! ### The tables of names -/

/-- Every property is written, numbered and assembled as its row of R202 says. -/
theorem propertyNumbers_agree : ∀ e ∈ Machine.propertyNumbers, e.1.spelling = e.2.2
    ∧ PropertyName.ofSelector (BitVec.ofNat 2 e.2.1) = e.1
    ∧ (TextCommand.assemble ⟨.getProperty, [.property e.1]⟩).map (·.map encode)
      = some [BitVec.ofNat 32 (0x60000000 + e.2.1)] := by
  decide

/-- Every status selector is written, numbered and assembled as its row of R204 says. -/
theorem statusNumbers_agree : ∀ e ∈ Machine.statusNumbers, e.1.spelling = e.2.2
    ∧ StatusName.ofSelector (BitVec.ofNat 4 e.2.1) = e.1
    ∧ (TextCommand.assemble ⟨.getStatus, [.status e.1]⟩).map (·.map encode)
      = some [BitVec.ofNat 32 (0x70000000 + e.2.1)] := by
  decide

open TextCommand in
/-- Settles O6, clause by clause: the numeric commands, the tables, and what the assembler refuses. -/
theorem textCommandsAssemble : Obligations.TextCommandsAssemble := by
  refine ⟨fun r hr => ?_, rfl, rfl, rfl, fun d hd r hr => ⟨?_, fun v hv => ?_⟩, fun s hs => ?_, fun s hs => ?_,
    by decide, fun m => ?_, propertyNumbers_agree, fun p => ?_, statusNumbers_agree, fun p => ?_, assemble_text,
    fun r hr => assemble_rate_eq_none hr,
    fun d r v => ⟨assemble_readRegister_eq_none, assemble_writeRegister_eq_none⟩,
    fun s hs => assemble_getProperty_eq_none hs, fun s hs => assemble_getStatus_eq_none hs, fun c hc => ?_,
    isSome_assemble⟩
  · rw [assemble_setup hr, assemble_audioHwSetup hr, assemble_restart hr, ← encode_setup_ofNat hr]
    exact ⟨rfl, rfl, rfl⟩
  · rw [assemble_readRegister hd hr, ← encode_readRegister_ofNat hd hr]
    rfl
  · rw [assemble_writeRegister hd hr hv, ← encode_writeRegister_ofNat hd hr hv]
    rfl
  · rw [assemble_getProperty hs, ← encode_getProperty_ofNat hs]
    rfl
  · rw [assemble_getStatus hs, ← encode_getStatus_ofNat hs]
    rfl
  · cases m <;> decide
  · cases p <;> decide
  · cases p <;> decide
  · exact operandsFit_of_wellFormed ((isSome_assemble c).symm.trans hc)

end Sys2Proof

/-! PROOFS. A register operation of the host on the control bus: one phase of its transaction after another, each
acknowledged by the device, or one that is never acknowledged (R87, R113 to R118, R126). -/

namespace Sys2Proof.Machine

/-! ### One step of the engine -/

section
variable {r : TxnRun} {s : State} {left : Nat} (hpos : r.pos = .poll left)
include hpos

theorem engineStep_again (hflag : cbFlag s.cbSr (stagePhase r.stage) = false) (hleft : 1 < left) :
    engineStep r s = .going { r with pos := .poll (left - 1) } s := by
  have hpoll : pollStep false left = .again (left - 1) := if_neg (Nat.not_le.2 hleft)
  simp only [engineStep, hpos, hflag, hpoll]

theorem engineStep_timeout (hflag : cbFlag s.cbSr (stagePhase r.stage) = false) (hleft : left ≤ 1) :
    engineStep r s = .timedOut (cbAbort r.stage s) := by
  have hpoll : pollStep false left = .timeout := if_pos hleft
  simp only [engineStep, hpos, hflag, hpoll]

theorem engineStep_next {g : TxnStage} (hflag : cbFlag s.cbSr (stagePhase r.stage) = true)
    (hg : nextStage r.txn r.stage = some g) :
    engineStep r s = .going { r with stage := g, pos := .request, byte := cbByteAfter r s } (cbPhaseOk r.stage s) := by
  simp only [engineStep, hpos, hflag, pollStep_true, hg]

theorem engineStep_done (hflag : cbFlag s.cbSr (stagePhase r.stage) = true) (hg : nextStage r.txn r.stage = none) :
    engineStep r s = .done r.byte (cbIdle (cbPhaseOk r.stage s)) := by
  simp only [engineStep, hpos, hflag, pollStep_true, hg]

end

theorem stagePhase_eq_rxd_iff (g : TxnStage) : stagePhase g = .rxd ↔ g = .receive := by
  cases g <;> decide

/-! ### FG inside a transaction -/

/-- `s` with FG inside the transaction `r`, and these values of the registers that a transaction moves. -/
def onBus (s : State) (r : TxnRun) (sr : BitVec 5) (x : Option CbPhase) (c : Byte) (tr : List BusSymbol) : State :=
  { s with fgBusy := true, fgProc := some (.transaction r), cbSr := sr, cbWait := x, cbRxByte := c, cbTrace := tr }

/-- `s` with FG free and the engine idle again, its byte and the bus trace as the transaction left them (R111). -/
def offBus (s : State) (c : Byte) (tr : List BusSymbol) : State :=
  { s with fgBusy := false, fgProc := none, cbSr := 0, cbWait := none, cbRxByte := c, cbTrace := tr }

theorem continueFg_transaction (r : TxnRun) (s : State) :
    continueFg (.transaction r) s = onBus s r s.cbSr s.cbWait s.cbRxByte s.cbTrace := rfl

theorem take_cbAck_onBus {s : State} {r : TxnRun} {sr : BitVec 5} {x : CbPhase} {c : Byte} {tr : List BusSymbol}
    (b : Byte) (hflag : cbFlag sr x = false) :
    take (.cbAck b) (onBus s r sr (some x) c tr)
      = .next (onBus s r (cbFlagSet sr x) (some x) (if x = .rxd then b else c) tr) :=
  take_of_enabled ((cbAckEnabled_iff (onBus s r sr (some x) c tr)).2 ⟨x, rfl, hflag⟩)

section
variable {s : State} (hmay : fgMayStep s = true) {t : Txn} {g : TxnStage} {y : Byte} {sr : BitVec 5}
  {x : Option CbPhase} {c : Byte} {tr : List BusSymbol} {left : Nat}
include hmay

theorem take_fg_onBus (r : TxnRun) :
    take .fg (onBus s r sr x c tr) = .next (settleTxn r.txn (engineStep r (onBus s r sr x c tr))) :=
  take_fg (s := onBus s r sr x c tr) rfl rfl hmay

theorem take_fg_request :
    take .fg (onBus s ⟨t, g, .request, y⟩ sr x c tr)
      = .next (onBus s ⟨t, g, .poll s.params.spinLimit, y⟩ (cbFlagClear sr (stagePhase g)) (some (stagePhase g)) c
          (tr ++ (stageSymbol s.params t g).toList)) :=
  take_fg_onBus hmay _

theorem take_fg_again (hflag : cbFlag sr (stagePhase g) = false) (hleft : 1 < left) :
    take .fg (onBus s ⟨t, g, .poll left, y⟩ sr x c tr) = .next (onBus s ⟨t, g, .poll (left - 1), y⟩ sr x c tr) := by
  rw [take_fg_onBus hmay, engineStep_again rfl hflag hleft]
  rfl

theorem take_fg_timeout (hflag : cbFlag sr (stagePhase g) = false) (hleft : left ≤ 1) :
    take .fg (onBus s ⟨t, g, .poll left, y⟩ sr x c tr)
      = .next (raiseError .busTimeout (offBus s c (tr ++ if g = .stop then [] else [.p]))) := by
  rw [take_fg_onBus hmay, engineStep_timeout rfl hflag hleft]
  by_cases hg : g = .stop <;> simp [settleTxn, raiseError, cbAbort, cbIdle, onBus, offBus, hg]

theorem take_fg_next {g' : TxnStage} (hflag : cbFlag sr (stagePhase g) = true) (hg : nextStage t g = some g') :
    take .fg (onBus s ⟨t, g, .poll left, y⟩ sr x c tr)
      = .next (onBus s ⟨t, g', .request, if g = .receive then c else y⟩ sr none c
          (tr ++ if g = .receive then [.rxNack c] else [])) := by
  rw [take_fg_onBus hmay, engineStep_next rfl hflag hg]
  by_cases hr : g = .receive <;> simp [settleTxn, continueFg, cbByteAfter, cbPhaseOk, onBus, hr]

theorem take_fg_done (hflag : cbFlag sr (stagePhase g) = true) (hg : nextStage t g = none) :
    take .fg (onBus s ⟨t, g, .poll left, y⟩ sr x c tr)
      = .next (succeed (txnResult t y) (offBus s c (tr ++ if g = .receive then [.rxNack c] else []))) := by
  rw [take_fg_onBus hmay, engineStep_done rfl hflag hg]
  by_cases hr : g = .receive <;> simp [settleTxn, succeed, cbIdle, cbPhaseOk, onBus, offBus, hr]

/-! ### One phase -/

/-- Poll steps that see 0 only use up the bound (R13, R113). -/
theorem runMoves_polls (hflag : cbFlag sr (stagePhase g) = false) {k : Nat} (hk : k < left) :
    runMoves (List.replicate k .fg) (onBus s ⟨t, g, .poll left, y⟩ sr x c tr)
      = .next (onBus s ⟨t, g, .poll (left - k), y⟩ sr x c tr) := by
  induction k generalizing left with
  | zero => rfl
  | succ k ih =>
    rw [List.replicate_succ, runMoves_cons_next (take_fg_again hmay hflag (by omega)), ih (by omega), Nat.sub_sub,
      Nat.add_comm 1 k]

/-- A phase up to its acknowledge: the request, `k` poll steps in vain, and the device's answer; the poll step that sees
the flag is left (R113, R116). -/
theorem runMoves_fgAckedAfter {k : Nat} (hk : k < s.params.spinLimit) (b : Byte) :
    runMoves (fgAckedAfter k b) (onBus s ⟨t, g, .request, y⟩ sr x c tr)
      = runMoves [.fg] (onBus s ⟨t, g, .poll (s.params.spinLimit - k), y⟩
          (cbFlagSet (cbFlagClear sr (stagePhase g)) (stagePhase g)) (some (stagePhase g))
          (if g = .receive then b else c) (tr ++ (stageSymbol s.params t g).toList)) := by
  have hflag := cbFlag_clear sr (stagePhase g)
  rw [fgAckedAfter, List.cons_append, runMoves_cons_next (take_fg_request hmay),
    runMoves_append (runMoves_polls hmay hflag hk), runMoves_cons_next (take_cbAck_onBus b hflag)]
  simp only [stagePhase_eq_rxd_iff]

end

/-- What an acknowledged phase puts on the bus: its symbol, and the byte received in a reception (R113, R114). -/
def phaseSymbols (p : Params) (t : Txn) (b : Byte) (g : TxnStage) : List BusSymbol :=
  (stageSymbol p t g).toList ++ if g = .receive then [.rxNack b] else []

section
variable {s : State} (hmay : fgMayStep s = true) {t : Txn} {g : TxnStage} {y : Byte} {sr : BitVec 5}
  {x : Option CbPhase} {c : Byte} {tr : List BusSymbol}
include hmay

theorem runMoves_ackedPhase {g' : TxnStage} {k : Nat} (hk : k < s.params.spinLimit) (b : Byte)
    (hg : nextStage t g = some g') :
    runMoves (fgAckedAfter k b) (onBus s ⟨t, g, .request, y⟩ sr x c tr)
      = .next (onBus s ⟨t, g', .request, if g = .receive then b else y⟩
          (cbFlagSet (cbFlagClear sr (stagePhase g)) (stagePhase g)) none (if g = .receive then b else c)
          (tr ++ phaseSymbols s.params t b g)) := by
  rw [runMoves_fgAckedAfter hmay hk b, runMoves_cons_next (take_fg_next hmay (cbFlag_set _ _) hg), runMoves_nil]
  by_cases hr : g = .receive <;> simp [hr, phaseSymbols]

theorem runMoves_ackedLastPhase {k : Nat} (hk : k < s.params.spinLimit) (b : Byte) (hg : nextStage t g = none) :
    runMoves (fgAckedAfter k b) (onBus s ⟨t, g, .request, y⟩ sr x c tr)
      = .next (succeed (txnResult t y) (offBus s (if g = .receive then b else c)
          (tr ++ phaseSymbols s.params t b g))) := by
  rw [runMoves_fgAckedAfter hmay hk b, runMoves_cons_next (take_fg_done hmay (cbFlag_set _ _) hg), runMoves_nil]
  by_cases hr : g = .receive <;> simp [hr, phaseSymbols]

/-- A phase that is never acknowledged: the request and `SPIN_LIMIT` poll steps in vain (R117, R124). -/
theorem runMoves_stalledPhase (hspin : 1 ≤ s.params.spinLimit) :
    runMoves (fgStalled s.params) (onBus s ⟨t, g, .request, y⟩ sr x c tr)
      = .next (raiseError .busTimeout (offBus s c
          (tr ++ (stageSymbol s.params t g).toList ++ if g = .stop then [] else [.p]))) := by
  obtain ⟨n, hn⟩ := Nat.exists_eq_add_of_le' hspin
  have hflag := cbFlag_clear sr (stagePhase g)
  rw [fgStalled, runMoves_cons_next (take_fg_request hmay), hn, List.replicate_succ',
    runMoves_append (runMoves_polls hmay hflag (Nat.lt_succ_self n)),
    runMoves_cons_next (take_fg_timeout hmay hflag (by omega)), runMoves_nil]

end


/-! ### The phases of a transaction -/

/-- The lines of `cb_write` and of `cb_read`, in order (R115, R126). -/
def Txn.stages : Txn → List TxnStage
  | .write _ _ _ => [.start, .addr, .reg, .value, .stop]
  | .read _ _ => [.start, .addr, .reg, .restart, .readAddr, .receive, .stop]

/-- The host operation that makes the transaction (R118, R119). -/
def Txn.instr : Txn → Instr
  | .write dev reg val => .writeRegister dev reg val
  | .read dev reg => .readRegister dev reg

theorem nextStage_stages (t : Txn) {n : Nat} (hn : n + 1 < t.stages.length) :
    nextStage t t.stages[n] = some t.stages[n + 1] := by
  cases t with
  | write dev reg val =>
    have hlt : n < 4 := Nat.lt_of_succ_lt_succ hn
    interval_cases n <;> rfl
  | read dev reg =>
    have hlt : n < 6 := Nat.lt_of_succ_lt_succ hn
    interval_cases n <;> rfl

theorem stages_last (t : Txn) {n : Nat} (hn : n + 1 = t.stages.length) :
    t.stages[n]'(hn ▸ Nat.lt_succ_self n) = .stop := by
  cases t <;> cases hn <;> rfl

/-- What a byte register holds after the listed phases were acknowledged with `b`: only a reception stores it (R116). -/
def byteAfter (gs : List TxnStage) (b c : Byte) : Byte := if .receive ∈ gs then b else c

theorem byteAfter_append (gs : List TxnStage) (g : TxnStage) (b c : Byte) :
    byteAfter (gs ++ [g]) b c = if g = .receive then b else byteAfter gs b c := by
  by_cases hg : g = .receive <;> simp [byteAfter, hg, eq_comm (a := TxnStage.receive)]

theorem ackedPhases_append (ks : List Nat) (k : Nat) (b : Byte) :
    ackedPhases (ks ++ [k]) b = ackedPhases ks b ++ fgAckedAfter k b := by
  simp [ackedPhases]

/-- What is on the bus when phase number `n` of a transaction times out: what the phases before it put there, its own
symbol, and one stop condition unless it was the stop phase (R117). -/
def stalledSymbols (p : Params) (t : Txn) (b : Byte) (n : Nat) : List BusSymbol :=
  (t.stages.take n).flatMap (phaseSymbols p t b) ++ (t.stages[n]?.bind (stageSymbol p t)).toList
    ++ if t.stages[n]? = some .stop then [] else [.p]

/-- FG about to request the phase `g` of `t`, the phases `gs` behind it acknowledged with `b`. -/
def atPhase (s : State) (t : Txn) (b : Byte) (gs : List TxnStage) (g : TxnStage) (sr : BitVec 5) : State :=
  onBus s ⟨t, g, .request, byteAfter gs b 0⟩ sr none (byteAfter gs b s.cbRxByte)
    (s.cbTrace ++ gs.flatMap (phaseSymbols s.params t b))

section
variable {s : State} (hmay : fgMayStep s = true) (t : Txn) (b : Byte)
include hmay

theorem runMoves_ackedPhase_atPhase {k : Nat} (hk : k < s.params.spinLimit) (gs : List TxnStage) {g g' : TxnStage}
    (sr : BitVec 5) (hg : nextStage t g = some g') :
    runMoves (fgAckedAfter k b) (atPhase s t b gs g sr)
      = .next (atPhase s t b (gs ++ [g]) g' (cbFlagSet (cbFlagClear sr (stagePhase g)) (stagePhase g))) := by
  rw [atPhase, runMoves_ackedPhase hmay hk b hg]
  simp only [atPhase, byteAfter_append, List.flatMap_append, List.flatMap_singleton, List.append_assoc]

variable {ks : List Nat} (hks : ∀ k ∈ ks, k < s.params.spinLimit) (hwait : s.cbWait = none)
include hks hwait

/-- The first phases of a transaction, each acknowledged within its bound. -/
theorem runMoves_ackedPhases (hlen : ks.length < t.stages.length) :
    ∃ sr, runMoves (ackedPhases ks b) (continueFg (.transaction (beginTxn t)) s)
      = .next (atPhase s t b (t.stages.take ks.length) t.stages[ks.length] sr) := by
  induction ks using List.reverseRecOn with
  | nil =>
    refine ⟨s.cbSr, ?_⟩
    cases t <;> simp [ackedPhases, continueFg_transaction, hwait, atPhase, byteAfter, Txn.stages, beginTxn]
  | append_singleton ks k ih =>
    obtain ⟨hprev, hk⟩ := List.forall_mem_append.1 hks
    simp only [List.length_append, List.length_singleton] at hlen ⊢
    obtain ⟨sr, hrun⟩ := ih hprev (Nat.lt_of_succ_lt hlen)
    have hphase := runMoves_ackedPhase_atPhase hmay t b (hk k (List.mem_singleton_self k))
      (t.stages.take ks.length) sr (nextStage_stages t hlen)
    rw [ackedPhases_append, runMoves_append hrun, hphase,
      ← List.take_succ_eq_append_getElem (Nat.lt_of_succ_lt hlen)]
    exact ⟨_, rfl⟩

/-- All phases of a transaction, each acknowledged within its bound: the operation succeeds (R118, R119). -/
theorem runMoves_allPhases (hlen : ks.length = t.stages.length) :
    runMoves (ackedPhases ks b) (continueFg (.transaction (beginTxn t)) s)
      = .next (succeed (txnResult t (byteAfter t.stages b 0))
          (offBus s (byteAfter t.stages b s.cbRxByte) (s.cbTrace ++ t.stages.flatMap (phaseSymbols s.params t b)))) := by
  obtain rfl | ⟨init, k, rfl⟩ := List.eq_nil_or_concat' ks
  · cases t <;> cases hlen
  · obtain ⟨hprev, hk⟩ := List.forall_mem_append.1 hks
    rw [List.length_append, List.length_singleton] at hlen
    have hlt : init.length < t.stages.length := hlen ▸ Nat.lt_succ_self _
    have hstop := stages_last t hlen
    have hstages : t.stages.take init.length ++ [.stop] = t.stages := by
      rw [← hstop, ← List.take_succ_eq_append_getElem hlt, hlen, List.take_length]
    obtain ⟨sr, hrun⟩ := runMoves_ackedPhases hmay t b hprev hwait hlt
    rw [ackedPhases_append, runMoves_append hrun, hstop, atPhase,
      runMoves_ackedLastPhase hmay (hk k (List.mem_singleton_self k)) b rfl]
    generalize t.stages.take init.length = gs at hstages
    simp [← hstages, byteAfter_append]

/-- A transaction whose phase number `ks.length` is never acknowledged: `BusTimeout` (R117). -/
theorem runMoves_stalledTxn (hspin : 1 ≤ s.params.spinLimit) (hlen : ks.length < t.stages.length) :
    runMoves (ackedPhases ks b ++ fgStalled s.params) (continueFg (.transaction (beginTxn t)) s)
      = .next (raiseError .busTimeout (offBus s (byteAfter (t.stages.take ks.length) b s.cbRxByte)
          (s.cbTrace ++ stalledSymbols s.params t b ks.length))) := by
  obtain ⟨sr, hrun⟩ := runMoves_ackedPhases hmay t b hks hwait hlen
  rw [runMoves_append hrun, atPhase, runMoves_stalledPhase hmay hspin]
  simp only [stalledSymbols, List.getElem?_eq_getElem hlen, Option.bind_some, Option.some_inj, List.append_assoc]

end

/-! ### The host's register operations -/

theorem exec_txnInstr (t : Txn) (s : State) : exec t.instr s = .next (beginRegisterOp t s) := by
  cases t <;> rfl

/-- An accepted register operation that is admitted has its transaction in progress (R118 to R120). -/
theorem take_registerOp {s : State} (t : Txn) (hacc : acceptsCommand s = true) (hclk : s.cbClkOn = true)
    (hrun : s.runState ≠ .running) :
    take (.command (encode t.instr)) s
      = .next (continueFg (.transaction (beginTxn t)) { s with cmd := encode t.instr }) := by
  have hadm : registerOpAdmitted { s with cmd := encode t.instr } = true := by simp [registerOpAdmitted, hclk, hrun]
  rw [take_command hacc, accept, decodeOfEncode]
  simp only [exec_txnInstr, beginRegisterOp, hadm, if_true]

section
variable {s : State} (h : Inv s) (hacc : acceptsCommand s = true) (hclk : s.cbClkOn = true)
  (hrun : s.runState ≠ .running) (t : Txn) (b : Byte) {ks : List Nat} (hks : ∀ k ∈ ks, k < s.params.spinLimit)
include h hacc

/-- Where a command is accepted nothing is in progress (R21, R110, R111). -/
theorem Inv.idle_of_accepts : s.fgBusy = false ∧ s.fgProc = none ∧ s.cbWait = none ∧ s.cbSr = 0 := by
  obtain ⟨hbusy, hphase, -⟩ := (acceptsCommand_iff s).1 hacc
  exact ⟨hbusy, h.fgProc_eq_none hbusy, h.engineFits_none hbusy (by simp [hphase])⟩

include hclk hrun hks

theorem registerOp_acknowledged (hlen : ks.length = t.stages.length) :
    runMoves (.command (encode t.instr) :: ackedPhases ks b) s = .next { s with
      cmd := encode t.instr
      rspErr := .ok
      rspData := txnResult t (byteAfter t.stages b 0)
      cbRxByte := byteAfter t.stages b s.cbRxByte
      cbTrace := s.cbTrace ++ t.stages.flatMap (phaseSymbols s.params t b) } := by
  obtain ⟨hbusy, hproc, hwait, hsr⟩ := h.idle_of_accepts hacc
  have hmay : fgMayStep { s with cmd := encode t.instr } = true := (Bool.and_eq_true_iff.1 hacc).2
  rw [runMoves_cons_next (take_registerOp t hacc hclk hrun),
    runMoves_allPhases (s := { s with cmd := encode t.instr }) hmay t b hks hwait hlen]
  simp only [succeed, offBus, hbusy, hproc, hwait, hsr]

theorem registerOp_stalled (hlen : ks.length < t.stages.length) :
    runMoves (.command (encode t.instr) :: ackedPhases ks b ++ fgStalled s.params) s = .next { s with
      cmd := encode t.instr
      rspErr := .busTimeout
      rspData := 0
      lastError := .busTimeout
      cbRxByte := byteAfter (t.stages.take ks.length) b s.cbRxByte
      cbTrace := s.cbTrace ++ stalledSymbols s.params t b ks.length } := by
  obtain ⟨hbusy, hproc, hwait, hsr⟩ := h.idle_of_accepts hacc
  have hmay : fgMayStep { s with cmd := encode t.instr } = true := (Bool.and_eq_true_iff.1 hacc).2
  have hspin : 1 ≤ s.params.spinLimit := by
    obtain ⟨-, -, -, -, -, -, hspin, -⟩ := h.params_valid
    exact hspin
  rw [List.cons_append, runMoves_cons_next (take_registerOp t hacc hclk hrun)]
  refine (runMoves_stalledTxn (s := { s with cmd := encode t.instr }) hmay t b hks hwait hspin hlen).trans ?_
  simp only [raiseError, offBus, hbusy, hproc, hwait, hsr]

end

/-- Settles O21: the five phases of a write. -/
theorem writeRegisterAcknowledged : Obligations.WriteRegisterAcknowledged := by
  intro s dev reg val b ks h hacc hclk hrun hlen hks
  exact registerOp_acknowledged h hacc hclk hrun (.write dev reg val) b hks hlen

/-- Settles O22: the seven phases of a read. -/
theorem readRegisterAcknowledged : Obligations.ReadRegisterAcknowledged := by
  intro s dev reg b ks h hacc hclk hrun hlen hks
  exact registerOp_acknowledged h hacc hclk hrun (.read dev reg) b hks hlen

/-- A write that stalls has the first symbols of its frame on the bus, and receives nothing (R87, R115, R117). -/
theorem stalledSymbols_write (p : Params) (dev : BitVec 7) (reg val b : Byte) {n : Nat} (hn : n < 5) :
    stalledSymbols p (.write dev reg val) b n
        = (writeFrame p dev reg val).take (n + 1) ++ (if n = 4 then [] else [.p])
      ∧ ∀ c, byteAfter ((Txn.write dev reg val).stages.take n) b c = c := by
  interval_cases n <;> exact ⟨rfl, fun _ => rfl⟩

/-- A read that stalls has the first symbols of its frame on the bus, with the received byte in the stop phase only (R87, R117,
R126). -/
theorem stalledSymbols_read (p : Params) (dev : BitVec 7) (reg b : Byte) {n : Nat} (hn : n < 7) :
    stalledSymbols p (.read dev reg) b n
        = (if n = 6 then readFrame p dev reg b else (readFrame p dev reg b).take (min (n + 1) 5) ++ [.p])
      ∧ ∀ c, byteAfter ((Txn.read dev reg).stages.take n) b c = if n = 6 then b else c := by
  interval_cases n <;> exact ⟨rfl, fun _ => rfl⟩

/-- Settles O25, operation by operation. -/
theorem stallAtAnyPhase : Obligations.StallAtAnyPhase := by
  intro s dev reg val b ks h hacc hclk hrun hks
  refine ⟨fun hlen => ?_, fun hlen => ?_⟩
  · obtain ⟨hsym, hbyte⟩ := stalledSymbols_write s.params dev reg val b hlen
    refine (registerOp_stalled h hacc hclk hrun (.write dev reg val) b hks hlen).trans ?_
    rw [hsym, hbyte, List.append_assoc]
    rfl
  · obtain ⟨hsym, hbyte⟩ := stalledSymbols_read s.params dev reg b hlen
    refine (registerOp_stalled h hacc hclk hrun (.read dev reg) b hks hlen).trans ?_
    rw [hsym, hbyte]
    rfl

end Sys2Proof.Machine

/-! PROOFS. `do_setup` and the environment it waits for: the steps of the clocks and the audio bus, and SETUP from its
acceptance to its end, written so that whoever runs a procedure can use it (R101 to R106, R121, R130 to R133, R148 to
R150). -/

namespace Sys2Proof.Machine

/-! ### The environment's steps -/

section
variable (s : State)

theorem enabled_pllLock_iff : enabled .pllLock s = true ↔ s.pllLocked = false := by simp [enabled]

theorem enabled_frameError_iff : enabled .frameError s = true ↔ s.extRxEn = true ∧ s.feStatus = false := by
  simp [enabled, frameErrorEnabled]

theorem enabled_dmaError_rx_iff (kind : DmaErrorKind) :
    enabled (.dmaError .rx kind) s = true ↔ s.rxEn = true ∧ s.clocksOn = true := Bool.and_eq_true_iff

theorem enabled_dmaError_tx_iff (kind : DmaErrorKind) :
    enabled (.dmaError .tx kind) s = true ↔ s.txEn = true ∧ s.clocksOn = true := Bool.and_eq_true_iff

end

/-- Settles O54, move by move. -/
theorem environmentSteps : Obligations.EnvironmentSteps := by
  intro s
  refine ⟨enabled_pllLock_iff s, rfl, enabled_frameError_iff s, enabled_dmaError_rx_iff s, enabled_dmaError_tx_iff s,
    fun hlock => take_of_enabled ((enabled_pllLock_iff s).2 hlock), rfl,
    fun hext hfe => take_of_enabled ((enabled_frameError_iff s).2 ⟨hext, hfe⟩), fun hen hclk => ?_, fun hen hclk => ?_,
    fun m _ hm => take_of_disabled hm⟩
  · exact ⟨take_of_enabled ((enabled_dmaError_rx_iff s .te).2 ⟨hen, hclk⟩),
      take_of_enabled ((enabled_dmaError_rx_iff s .dme).2 ⟨hen, hclk⟩)⟩
  · exact ⟨take_of_enabled ((enabled_dmaError_tx_iff s .te).2 ⟨hen, hclk⟩),
      take_of_enabled ((enabled_dmaError_tx_iff s .dme).2 ⟨hen, hclk⟩)⟩

/-! ### How `do_setup` begins -/

theorem exec_setup (rate : BitVec 24) (s : State) :
    exec (.setup rate) s = .next (settleSetup rate (setupBegin rate s)) := rfl

/-- A member of `RATES` has its row of `CLOCK_TABLE` (R7, R8, R102). -/
theorem RateClock.rateOf_eq {p : Params} {rate : BitVec 24} {clk : ClockParams} (h : RateClock p rate clk) :
    ∃ r, rateOf rate = some r ∧ clockTable p r = clk := by
  rcases h with ⟨rfl, rfl⟩ | ⟨rfl, rfl⟩ | ⟨rfl, rfl⟩
  · exact ⟨.hz16000, rfl, rfl⟩
  · exact ⟨.hz32000, rfl, rfl⟩
  · exact ⟨.hz44100, rfl, rfl⟩

theorem setupBegin_supported {s : State} {rate : BitVec 24} {clk : ClockParams} (hclk : RateClock s.params rate clk)
    (hrun : s.runState ≠ .running) :
    setupBegin rate s = .going (.pll s.params.pllSpinLimit) { s with cfgClk := clk, pllLocked := false } := by
  obtain ⟨r, hr, rfl⟩ := hclk.rateOf_eq
  simp only [setupBegin, hr, hrun, if_false, applyClock]

theorem setupBegin_unsupported {rate : BitVec 24} (h : Unsupported rate) (s : State) :
    setupBegin rate s = .failed .unsupportedRate s := by
  simp only [setupBegin, (rateOf_eq_none_iff rate).2 h]

/-- Settles O10: the operation is in progress where `do_setup` begins. -/
theorem setupBegins : Obligations.SetupBegins := by
  intro s rate clk hclk hrun
  rw [exec_setup, setupBegin_supported hclk hrun]
  rfl

/-- Settles O11: the rate check comes before every write and before the run-state check. -/
theorem unsupportedRateChangesNothing : Obligations.UnsupportedRateChangesNothing := by
  intro s rate hrate
  rw [exec_setup, setupBegin_unsupported hrate]
  rfl

/-! ### Whoever runs a procedure

A procedure reads no continuation register (R56), so its step is the same in a state and where the agent that runs it
has recorded its continuation. -/

/-- The agent whose step is `m` runs the procedure `step`, recording its answers by `settle`; it may step where `may`
holds, and the environment's answers reach the state that the procedure works on. -/
structure Runs {π : Type} (m : Move) (may : State → Prop) (step : π → State → ProcResult π)
    (settle : ProcResult π → State) : Prop where
  take_step : ∀ pos t, may t → take m (settle (.going pos t)) = .next (settle (step pos t))
  take_pllLock : ∀ pos t, t.pllLocked = false →
    take .pllLock (settle (.going pos t)) = .next (settle (.going pos (pllLock t)))
  take_cbAck : ∀ pos t b, cbAckEnabled t = true →
    take (.cbAck b) (settle (.going pos t)) = .next (settle (.going pos (cbAck b t)))

/-- `s` with its continuation registers rewritten (R21, R56). -/
def mapProcs (b : Bool → Bool) (k : Option FgProc → Option FgProc) (d : Option RecoveryProc → Option RecoveryProc)
    (s : State) : State :=
  { s with fgBusy := b s.fgBusy, fgProc := k s.fgProc, dispProc := d s.dispProc }

theorem continueFg_eq_mapProcs (k : FgProc) : continueFg k = mapProcs (fun _ => true) (fun _ => some k) id := rfl

/-- A procedure's answer with `f` applied to its state. -/
def ProcResult.map {π : Type} (f : State → State) : ProcResult π → ProcResult π
  | .going pos s => .going pos (f s)
  | .done s => .done (f s)
  | .failed e s => .failed e (f s)

/-- The engine's answer with `f` applied to its state. -/
def EngineResult.map (f : State → State) : EngineResult → EngineResult
  | .going r s => .going r (f s)
  | .done b s => .done b (f s)
  | .timedOut s => .timedOut (f s)

section
variable (b : Bool → Bool) (k : Option FgProc → Option FgProc) (d : Option RecoveryProc → Option RecoveryProc)
  (s : State)

theorem mapProcs_params : (mapProcs b k d s).params = s.params := rfl
theorem mapProcs_pllLocked : (mapProcs b k d s).pllLocked = s.pllLocked := rfl
theorem mapProcs_cbSr : (mapProcs b k d s).cbSr = s.cbSr := rfl

theorem engineStep_mapProcs (r : TxnRun) :
    engineStep r (mapProcs b k d s) = (engineStep r s).map (mapProcs b k d) := by
  unfold engineStep
  cases r.pos with
  | request => rfl
  | poll left =>
    simp only [mapProcs_cbSr]
    cases pollStep (cbFlag s.cbSr (stagePhase r.stage)) left with
    | again n => rfl
    | timeout => rfl
    | ok => cases nextStage r.txn r.stage <;> rfl

theorem codecStep_mapProcs (c : CodecRun) :
    codecStep c (mapProcs b k d s) = (codecStep c s).map (mapProcs b k d) := by
  simp only [codecStep, engineStep_mapProcs]
  cases engineStep c.run s with
  | going r t => rfl
  | timedOut t => rfl
  | done y t =>
    simp only [EngineResult.map, mapProcs_params]
    cases beginCodec t.params c.rest <;> rfl

theorem setupStep_mapProcs (rate : BitVec 24) (pos : SetupPos) :
    setupStep rate pos (mapProcs b k d s) = (setupStep rate pos s).map (mapProcs b k d) := by
  cases pos with
  | pll left =>
    simp only [setupStep, mapProcs_pllLocked]
    cases pollStep s.pllLocked left <;> rfl
  | codec c =>
    simp only [setupStep, codecStep_mapProcs]
    cases codecStep c s <;> rfl
  | clockOn => rfl
  | dmaConfigure => rfl
  | zeroBuffers => rfl
  | finish => rfl

end

/-- FG runs `do_setup` for SETUP, where no handler is active and no line requests (R130, R229 (a)). -/
theorem fg_runs_setup (rate : BitVec 24) : Runs .fg (fgMayStep · = true) (setupStep rate) (settleSetup rate) where
  take_step pos t hmay := by
    rw [settleSetup, take_fg (s := continueFg (.setup rate pos) t) rfl rfl hmay, fgStepAt, continueFg_eq_mapProcs,
      setupStep_mapProcs]
    cases setupStep rate pos t <;> rfl
  take_pllLock pos t hlock := take_of_enabled ((enabled_pllLock_iff (settleSetup rate (.going pos t))).2 hlock)
  take_cbAck pos t b hen := by
    obtain ⟨x, hx, -⟩ := (cbAckEnabled_iff t).1 hen
    rw [take_of_enabled (m := .cbAck b) (s := settleSetup rate (.going pos t)) hen, act, cbAck_of_wait b hx,
      cbAck_of_wait (s := settleSetup rate (.going pos t)) b hx]
    rfl

/-! ### A codec sequence that the device acknowledges -/

/-- A codec sequence run by the agent whose step is `m`, every phase acknowledged before its first poll step. -/
def codecAcked (m : Move) (seq : List (Byte × Byte)) : List Move :=
  seq.flatMap (fun _ => (List.replicate 5 [m, .cbAck 0, m]).flatten)

/-- `s` with these values of the registers that a codec sequence moves. -/
def busAt (s : State) (sr : BitVec 5) (x : Option CbPhase) (tr : List BusSymbol) : State :=
  { s with cbSr := sr, cbWait := x, cbTrace := tr }

/-- Where a codec sequence stands when its next entry is about to begin, or when nothing is left (R121). -/
def codecFrom (p : Params) (seq : List (Byte × Byte)) (s : State) : ProcResult CodecRun :=
  match beginCodec p seq with
  | some c => .going c s
  | none => .done s

theorem cbAck_busAt {s : State} {sr : BitVec 5} {x : CbPhase} {tr : List BusSymbol} (b : Byte) (hx : x ≠ .rxd) :
    cbAck b (busAt s sr (some x) tr) = busAt s (cbFlagSet sr x) (some x) tr := by
  rw [cbAck_of_wait b rfl, if_neg hx]
  rfl

section
variable {s : State} {m : Move} {may : State → Prop} {settle : ProcResult CodecRun → State}
  (hrun : Runs m may codecStep settle) (hmay : ∀ sr x tr, may (busAt s sr x tr))
  {dev : BitVec 7} {reg val : Byte} {g : TxnStage} {rest : List (Byte × Byte)} {sr : BitVec 5} {tr : List BusSymbol}
include hrun hmay

/-- A phase up to its acknowledge: the poll step that sees the flag is left (R113, R116). -/
theorem runMoves_codec_request (hg : g ≠ .receive) :
    runMoves [m, .cbAck 0, m] (settle (.going ⟨⟨.write dev reg val, g, .request, 0⟩, rest⟩ (busAt s sr none tr)))
      = .next (settle (codecStep ⟨⟨.write dev reg val, g, .poll s.params.spinLimit, 0⟩, rest⟩
          (busAt s (cbFlagSet (cbFlagClear sr (stagePhase g)) (stagePhase g)) (some (stagePhase g))
            (tr ++ (stageSymbol s.params (.write dev reg val) g).toList)))) := by
  have hbyte : stagePhase g ≠ .rxd := fun hrx => hg ((stagePhase_eq_rxd_iff g).1 hrx)
  have hreq := hrun.take_step ⟨⟨.write dev reg val, g, .request, 0⟩, rest⟩ (busAt s sr none tr) (hmay _ _ _)
  have hack := hrun.take_cbAck ⟨⟨.write dev reg val, g, .poll s.params.spinLimit, 0⟩, rest⟩
    (busAt s (cbFlagClear sr (stagePhase g)) (some (stagePhase g))
      (tr ++ (stageSymbol s.params (.write dev reg val) g).toList)) 0
    ((cbAckEnabled_iff _).2 ⟨stagePhase g, rfl, cbFlag_clear _ _⟩)
  rw [cbAck_busAt 0 hbyte] at hack
  exact (runMoves_cons_next hreq).trans ((runMoves_cons_next hack).trans
    (runMoves_cons_next (hrun.take_step _ _ (hmay _ _ _))))

/-- An acknowledged phase before the last one (R115). -/
theorem runMoves_codec_phase {g' : TxnStage} (hg : g ≠ .receive) (hnext : nextStage (.write dev reg val) g = some g') :
    runMoves [m, .cbAck 0, m] (settle (.going ⟨⟨.write dev reg val, g, .request, 0⟩, rest⟩ (busAt s sr none tr)))
      = .next (settle (.going ⟨⟨.write dev reg val, g', .request, 0⟩, rest⟩
          (busAt s (cbFlagSet (cbFlagClear sr (stagePhase g)) (stagePhase g)) none
            (tr ++ (stageSymbol s.params (.write dev reg val) g).toList)))) := by
  rw [runMoves_codec_request hrun hmay hg, codecStep, engineStep_next rfl (cbFlag_set _ _) hnext]
  simp only [cbByteAfter, cbPhaseOk, if_neg hg, busAt]

/-- The acknowledged stop: the engine is idle, and the next entry begins, if there is one (R111, R121). -/
theorem runMoves_codec_stop :
    runMoves [m, .cbAck 0, m] (settle (.going ⟨⟨.write dev reg val, .stop, .request, 0⟩, rest⟩ (busAt s sr none tr)))
      = .next (settle (codecFrom s.params rest (busAt s 0 none (tr ++ [.p])))) := by
  rw [runMoves_codec_request hrun hmay (g := .stop) (by decide), codecStep, engineStep_done rfl (cbFlag_set _ _) rfl]
  rfl

/-- One entry of a codec sequence: five phases, one complete write frame (R87, R115, R121). -/
theorem runMoves_codec_write (e : Byte × Byte) :
    runMoves (List.replicate 5 [m, .cbAck 0, m]).flatten
        (settle (codecFrom s.params (e :: rest) (busAt s sr none tr)))
      = .next (settle (codecFrom s.params rest
          (busAt s 0 none (tr ++ writeFrame s.params s.params.codecAddr e.1 e.2)))) := by
  simp only [List.replicate, List.flatten_cons, List.flatten_nil, List.append_nil]
  rw [codecFrom, beginCodec, beginTxn, runMoves_append (runMoves_codec_phase hrun hmay (by decide) rfl),
    runMoves_append (runMoves_codec_phase hrun hmay (by decide) rfl),
    runMoves_append (runMoves_codec_phase hrun hmay (by decide) rfl),
    runMoves_append (runMoves_codec_phase hrun hmay (by decide) rfl), runMoves_codec_stop hrun hmay]
  simp [writeFrame, stageSymbol, txnDev, txnFramed]

/-- A whole codec sequence puts its frames on the bus and leaves the engine idle (R121). -/
theorem runMoves_codecAcked (seq : List (Byte × Byte)) :
    runMoves (codecAcked m seq) (settle (codecFrom s.params seq (busAt s 0 none tr)))
      = .next (settle (.done (busAt s 0 none (tr ++ codecFrames s.params seq)))) := by
  induction seq generalizing tr with
  | nil => simp [codecAcked, codecFrom, beginCodec, codecFrames]
  | cons e rest ih =>
    rw [codecAcked, List.flatMap_cons, runMoves_append (runMoves_codec_write hrun hmay e)]
    refine ih.trans ?_
    simp only [codecFrames, List.flatMap_cons, List.append_assoc]

end

/-! ### `do_setup` -/

/-- A codec sequence's answer as `do_setup` takes it (R130). -/
def ProcResult.inSetup : ProcResult CodecRun → ProcResult SetupPos
  | .going c s => .going (.codec c) s
  | .done s => .going .dmaConfigure s
  | .failed e s => .failed e (invalidateConfig s)

theorem setupStep_codec (rate : BitVec 24) (c : CodecRun) (s : State) :
    setupStep rate (.codec c) s = (codecStep c s).inSetup := by
  rw [setupStep]
  cases codecStep c s <;> rfl

theorem setupStep_clockOn (rate : BitVec 24) (s : State) :
    setupStep rate .clockOn s = (codecFrom s.params s.params.cstartSeq { s with cbClkOn := true }).inSetup := by
  rw [setupStep, afterClockOn, codecFrom]
  cases beginCodec s.params s.params.cstartSeq <;> rfl

/-- Who runs `do_setup` runs `codec_start` inside it. -/
theorem Runs.codec_of_setup {m : Move} {may : State → Prop} {rate : BitVec 24} {settle : ProcResult SetupPos → State}
    (h : Runs m may (setupStep rate) settle) : Runs m may codecStep (settle ·.inSetup) where
  take_step c t hmay := (h.take_step (.codec c) t hmay).trans (by rw [setupStep_codec])
  take_pllLock c := h.take_pllLock (.codec c)
  take_cbAck c := h.take_cbAck (.codec c)

/-- `s` with the control-bus clock on and `CSTART_SEQ` written to the codec (R121, R130). -/
def codecStarted (s : State) : State :=
  { s with cbClkOn := true, cbTrace := s.cbTrace ++ codecFrames s.params s.params.cstartSeq }

/-- The writes of `do_setup` from `dma_configure` on, the zeroing among them if it has not happened before (R130, R132,
R133). -/
def setupWrites (rate : BitVec 24) (s : State) : State :=
  finishSetup rate (if s.bufsInit then dmaConfigure s else zeroBuffers (dmaConfigure s))

/-- What `do_setup` writes from `dma_configure` on; memory is said by `setupWrites_mem` and `byteAt_setupWrites`. -/
theorem setupWrites_eq (rate : BitVec 24) (s : State) :
    setupWrites rate s = { s with
      runState := .configured
      cfgValid := true
      cfgRate := rate
      bufsInit := true
      rxEn := false
      txEn := false
      rxIrqEn := ⟨true, true, true, true⟩
      txIrqEn := ⟨true, true⟩
      rxFlags := ⟨false, false, false, false⟩
      txFlags := ⟨false, false⟩
      rxCfg := ⟨true, .p2m, 16, true, false, BitVec.ofNat 16 s.params.nRx, s.params.rxBurst⟩
      txCfg := ⟨true, .m2p, 16, true, false, BitVec.ofNat 16 s.params.nTx, s.params.txBurst⟩
      mem := (setupWrites rate s).mem } := by
  rw [setupWrites]
  cases hinit : s.bufsInit with
  | true => simp only [if_true, finishSetup, dmaConfigure, hinit]
  | false => rfl

theorem setupWrites_mem (rate : BitVec 24) {s : State} (hinit : s.bufsInit = true) :
    (setupWrites rate s).mem = s.mem := by
  rw [setupWrites, hinit]
  rfl

theorem byteAt_setupWrites (rate : BitVec 24) {s : State} (hinit : s.bufsInit = false) (a : Nat) :
    (setupWrites rate s).mem.byteAt a = if inBuffers s.params a then some 0 else s.mem.byteAt a := by
  rw [setupWrites, hinit]
  exact byteAt_zeroBuffers (dmaConfigure s) a

/-- DISP does what it does in `s`, and the same interrupt lines are unmasked: all that `do_setup` leaves to decide who
may step (R38, R229). -/
def SameLines (s t : State) : Prop :=
  t.dispPhase = s.dispPhase ∧ t.rxLineEn = s.rxLineEn ∧ t.txLineEn = s.txLineEn ∧ t.feLineEn = s.feLineEn

section
variable {m : Move} {may : State → Prop} {rate : BitVec 24} {settle : ProcResult SetupPos → State}
  (hrun : Runs m may (setupStep rate) settle) {s : State}
include hrun

/-- Poll steps that see an unlocked PLL only use up the bound (R13, R106). -/
theorem runMoves_pllPolls (hmay : may s) (hlock : s.pllLocked = false) {left k : Nat} (hk : k < left) :
    runMoves (List.replicate k m) (settle (.going (.pll left) s)) = .next (settle (.going (.pll (left - k)) s)) := by
  induction k generalizing left with
  | zero => rfl
  | succ k ih =>
    have hpoll : setupStep rate (.pll left) s = .going (.pll (left - 1)) s := by
      rw [setupStep, hlock, pollStep, if_neg Bool.false_ne_true, if_neg (by omega)]
    have htake := hrun.take_step (.pll left) s hmay
    rw [hpoll] at htake
    rw [List.replicate_succ, runMoves_cons_next htake, ih (by omega), Nat.sub_sub, Nat.add_comm 1 k]

/-- A PLL that never locks: as many poll steps as the bound allows, then the failure (R103, R106, R131). -/
theorem runMoves_pllTimeout (hmay : may s) (hlock : s.pllLocked = false) {left : Nat} (hleft : 1 ≤ left) :
    runMoves (List.replicate left m) (settle (.going (.pll left) s))
      = .next (settle (.failed .pllLockTimeout (invalidateConfig s))) := by
  obtain ⟨n, rfl⟩ := Nat.exists_eq_add_of_le' hleft
  have htimeout : setupStep rate (.pll (n + 1 - n)) s = .failed .pllLockTimeout (invalidateConfig s) := by
    rw [setupStep, hlock, pollStep, if_neg Bool.false_ne_true, if_pos (by omega)]
  have htake := hrun.take_step (.pll (n + 1 - n)) s hmay
  rw [htimeout] at htake
  rw [List.replicate_succ', runMoves_append (runMoves_pllPolls hrun hmay hlock (Nat.lt_succ_self n)),
    runMoves_cons_next htake, runMoves_nil]

/-- The PLL locks, and the next poll step sees it (R104, R106). -/
theorem runMoves_pllLocks (hmay : may (pllLock s)) (hlock : s.pllLocked = false) (left : Nat) :
    runMoves [.pllLock, m] (settle (.going (.pll left) s)) = .next (settle (.going .clockOn (pllLock s))) :=
  (runMoves_cons_next (hrun.take_pllLock _ s hlock)).trans (runMoves_cons_next (hrun.take_step _ _ hmay))

variable (hmay : ∀ t, SameLines s t → may t)
include hmay

/-- The control-bus clock is turned on and the codec acknowledges its whole sequence (R121, R130). -/
theorem runMoves_codecStart (hwait : s.cbWait = none) (hsr : s.cbSr = 0) :
    runMoves (m :: codecAcked m s.params.cstartSeq) (settle (.going .clockOn s))
      = .next (settle (.going .dmaConfigure (codecStarted s))) := by
  have hidle : busAt { s with cbClkOn := true } 0 none s.cbTrace = { s with cbClkOn := true } := by
    rw [busAt, ← hsr, ← hwait]
  have hclock := hrun.take_step .clockOn s (hmay s ⟨rfl, rfl, rfl, rfl⟩)
  have hcodec := runMoves_codecAcked hrun.codec_of_setup (s := { s with cbClkOn := true }) (tr := s.cbTrace)
    (fun _ _ _ => hmay _ ⟨rfl, rfl, rfl, rfl⟩) s.params.cstartSeq
  rw [hidle] at hcodec
  rw [setupStep_clockOn] at hclock
  rw [runMoves_cons_next hclock]
  refine hcodec.trans ?_
  rw [busAt, ← hsr, ← hwait]
  rfl

/-- From `dma_configure` to the end, by way of the zeroing if it has not happened before (R130, R132, R133). -/
theorem runMoves_setupWrites :
    runMoves (if !s.bufsInit then [m, m, m] else [m, m]) (settle (.going .dmaConfigure s))
      = .next (settle (.done (setupWrites rate s))) := by
  have hdma := hrun.take_step .dmaConfigure s (hmay s ⟨rfl, rfl, rfl, rfl⟩)
  rw [setupStep] at hdma
  rw [setupWrites]
  cases hinit : s.bufsInit with
  | true =>
    have hfinish := hrun.take_step .finish (dmaConfigure s) (hmay _ ⟨rfl, rfl, rfl, rfl⟩)
    rw [hinit] at hdma
    exact (runMoves_cons_next hdma).trans (runMoves_cons_next hfinish)
  | false =>
    have hzero := hrun.take_step .zeroBuffers (dmaConfigure s) (hmay _ ⟨rfl, rfl, rfl, rfl⟩)
    have hfinish := hrun.take_step .finish (zeroBuffers (dmaConfigure s)) (hmay _ ⟨rfl, rfl, rfl, rfl⟩)
    rw [hinit] at hdma
    exact (runMoves_cons_next hdma).trans ((runMoves_cons_next hzero).trans (runMoves_cons_next hfinish))

/-- `do_setup` after its beginning, in a willing environment (R130). -/
theorem runMoves_setup (hlock : s.pllLocked = false) (hwait : s.cbWait = none) (hsr : s.cbSr = 0) (left : Nat) :
    runMoves ([.pllLock, m] ++ (m :: codecAcked m s.params.cstartSeq) ++ (if !s.bufsInit then [m, m, m] else [m, m]))
        (settle (.going (.pll left) s))
      = .next (settle (.done (setupWrites rate (codecStarted (pllLock s))))) := by
  have hpll := runMoves_pllLocks hrun (hmay (pllLock s) ⟨rfl, rfl, rfl, rfl⟩) hlock left
  have hcodec := runMoves_codecStart hrun (s := pllLock s) hmay hwait hsr
  have hwrites := runMoves_setupWrites hrun (s := codecStarted (pllLock s)) hmay
  rw [List.append_assoc, runMoves_append hpll]
  exact (runMoves_append hcodec).trans hwrites

end

/-! ### SETUP -/

/-- The willing environment of SETUP, cut where `do_setup` goes on to its next part. -/
theorem willingSetup_eq (p : Params) (first : Bool) :
    willingSetup p first = [.pllLock, .fg] ++ (.fg :: codecAcked .fg p.cstartSeq)
      ++ (if first then [.fg, .fg, .fg] else [.fg, .fg]) := rfl

/-- `s` once SETUP was accepted and `clock_configure` has made its writes (R45, R102, R106). -/
def setupStarted (s : State) (rate : BitVec 24) (clk : ClockParams) : State :=
  { s with cmd := encode (.setup rate), cfgClk := clk, pllLocked := false }

/-- An accepted SETUP that passes its checks waits for the PLL (R102, R106, R130). -/
theorem take_setup {s : State} {rate : BitVec 24} {clk : ClockParams} (hacc : acceptsCommand s = true)
    (hrun : s.runState ≠ .running) (hclk : RateClock s.params rate clk) :
    take (.command (encode (.setup rate))) s
      = .next (settleSetup rate (.going (.pll s.params.pllSpinLimit) (setupStarted s rate clk))) := by
  rw [take_command hacc, accept, decodeOfEncode]
  exact (exec_setup _ _).trans (congrArg (fun r => Host.Outcome.next (settleSetup rate r))
    (setupBegin_supported (s := { s with cmd := encode (.setup rate) }) hclk hrun))

/-- Settles O13: FG polls as often as the bound allows. -/
theorem setupPllLockTimeout : Obligations.SetupPllLockTimeout := by
  intro s rate clk hacc hrun hclk hlimit
  have hmay : fgMayStep s = true := (Bool.and_eq_true_iff.1 hacc).2
  rw [runMoves_cons_next (take_setup hacc hrun hclk)]
  exact runMoves_pllTimeout (fg_runs_setup rate) (s := setupStarted s rate clk) hmay rfl hlimit

/-- With every line masked and no handler active FG may step (R38, R229 (a)). -/
theorem fgMayStep_of_masked {s : State} (hphase : s.dispPhase = .idle)
    (hmask : s.rxLineEn = false ∧ s.txLineEn = false ∧ s.feLineEn = false) : fgMayStep s = true := by
  obtain ⟨hrx, htx, hfe⟩ := hmask
  exact (fgMayStep_iff s).2 ⟨hphase, irqRx_masked hrx, irqTx_masked htx, irqFe_masked hfe⟩

/-- Settles O12: what FG's run of `do_setup` leaves. -/
theorem setupSucceeds : Obligations.SetupSucceeds := by
  intro s rate clk h hacc hrun hclk
  obtain ⟨hbusy, hproc, hwait, hsr⟩ := h.idle_of_accepts hacc
  obtain ⟨-, hphase, -⟩ := (acceptsCommand_iff s).1 hacc
  obtain ⟨hrx, htx, hfe⟩ := (h.offline hrun (by simp [hphase])).masked
  have hsetup := runMoves_setup (fg_runs_setup rate) (s := setupStarted s rate clk)
    (fun t ⟨ephase, erx, etx, efe⟩ =>
      fgMayStep_of_masked (ephase.trans hphase) ⟨erx.trans hrx, etx.trans htx, efe.trans hfe⟩)
    rfl hwait hsr s.params.pllSpinLimit
  rw [willingSetup_eq]
  refine ⟨_, (runMoves_cons_next (take_setup hacc hrun hclk)).trans hsetup, ?_, fun hinit => ?_, fun hinit a => ?_⟩
  · refine (congrArg (succeed 0) (setupWrites_eq rate _)).trans ?_
    simp only [settleSetup, succeed, codecStarted, pllLock, setupStarted, hbusy, hproc]
  · exact setupWrites_mem rate (s := codecStarted (pllLock (setupStarted s rate clk))) hinit
  · exact byteAt_setupWrites rate (s := codecStarted (pllLock (setupStarted s rate clk))) hinit a

end Sys2Proof.Machine

/-! PROOFS. The control bus as its three devices meet it: one that stalls a register operation, one that stalls a codec
sequence, and the faithful simulator, which answers from the symbols it has seen (R115 to R126, R130, R131). -/

namespace Sys2Proof.Machine

theorem Inv.spinLimit_pos {s : State} (h : Inv s) : 1 ≤ s.params.spinLimit := by
  obtain ⟨-, -, -, -, -, -, hspin, -⟩ := h.params_valid
  exact hspin

/-! ### How a register operation begins -/

theorem exec_registerOp {s : State} (t : Txn) (hclk : s.cbClkOn = true) (hrun : s.runState ≠ .running) :
    exec t.instr s = .next (continueFg (.transaction (beginTxn t)) s) := by
  have hadm : registerOpAdmitted s = true := by simp [registerOpAdmitted, hclk, hrun]
  rw [exec_txnInstr, beginRegisterOp, if_pos hadm]

/-- Settles O20: both register operations are admitted. -/
theorem registerOpsBegin : Obligations.RegisterOpsBegin := fun _ dev reg val hclk hrun =>
  ⟨exec_registerOp (.write dev reg val) hclk hrun, exec_registerOp (.read dev reg) hclk hrun⟩

/-! ### A stalled register operation -/

/-- Before the bound is reached a stalled register operation is in its start phase, its start condition on the bus
(R113, R124). -/
theorem registerOp_polling {s : State} (hacc : acceptsCommand s = true) (hclk : s.cbClkOn = true)
    (hrun : s.runState ≠ .running) (t : Txn) {n : Nat} (hn : n < s.params.spinLimit) :
    runMoves (.command (encode t.instr) :: .fg :: List.replicate n .fg) s
      = .next (onBus { s with cmd := encode t.instr } ⟨t, .start, .poll (s.params.spinLimit - n), 0⟩
          (cbFlagClear s.cbSr .start) (some .start) s.cbRxByte (s.cbTrace ++ [.s])) := by
  have hmay : fgMayStep { s with cmd := encode t.instr } = true := (Bool.and_eq_true_iff.1 hacc).2
  rw [runMoves_cons_next (take_registerOp t hacc hclk hrun), continueFg_transaction, beginTxn,
    runMoves_cons_next (take_fg_request hmay)]
  exact runMoves_polls hmay (cbFlag_clear s.cbSr .start) hn

/-- Settles O24: up to the bound the operation polls its start phase, and the poll step at the bound aborts it. -/
theorem stalledBusTimesOut : Obligations.StalledBusTimesOut := by
  intro s i h hacc hclk hrun hi
  obtain ⟨t, rfl⟩ : ∃ t : Txn, i = t.instr := by
    obtain ⟨dev, reg, val, rfl⟩ | ⟨dev, reg, rfl⟩ := hi
    · exact ⟨.write dev reg val, rfl⟩
    · exact ⟨.read dev reg, rfl⟩
  refine ⟨fun n hn => ⟨_, registerOp_polling hacc hclk hrun t hn, rfl, rfl⟩, ?_⟩
  refine (registerOp_stalled h hacc hclk hrun t 0 (ks := []) nofun (by cases t <;> exact Nat.succ_pos _)).trans ?_
  cases t <;> rfl

/-! ### A codec sequence that stalls -/

/-- An idle engine is written by no more than the bus trace (R111). -/
theorem busAt_idle {s : State} (hwait : s.cbWait = none) (hsr : s.cbSr = 0) (tr : List BusSymbol) :
    busAt s 0 none tr = { s with cbTrace := tr } := by
  rw [busAt, ← hwait, ← hsr]

section
variable {s : State} {m : Move} {may : State → Prop} {settle : ProcResult CodecRun → State}
  (hrun : Runs m may codecStep settle) (hmay : ∀ sr x tr, may (busAt s sr x tr))
  {dev : BitVec 7} {reg val : Byte} {g : TxnStage} {rest : List (Byte × Byte)} {sr : BitVec 5} {x : Option CbPhase}
  {tr : List BusSymbol}
include hrun hmay

/-- The writes `pre` of a codec sequence are acknowledged, and the writes `post` are left (R121). -/
theorem runMoves_codecAcked_append (pre post : List (Byte × Byte)) :
    runMoves (codecAcked m pre) (settle (codecFrom s.params (pre ++ post) (busAt s 0 none tr)))
      = .next (settle (codecFrom s.params post (busAt s 0 none (tr ++ codecFrames s.params pre)))) := by
  induction pre generalizing tr with
  | nil => simp [codecAcked, codecFrames]
  | cons e pre ih =>
    rw [codecAcked, List.flatMap_cons, List.cons_append, runMoves_append (runMoves_codec_write hrun hmay e)]
    refine ih.trans ?_
    simp only [codecFrames, List.flatMap_cons, List.append_assoc]

/-- Poll steps of a codec write that see 0 only use up the bound (R13, R113). -/
theorem runMoves_codec_polls (hflag : cbFlag sr (stagePhase g) = false) {left k : Nat} (hk : k < left) :
    runMoves (List.replicate k m) (settle (.going ⟨⟨.write dev reg val, g, .poll left, 0⟩, rest⟩ (busAt s sr x tr)))
      = .next (settle (.going ⟨⟨.write dev reg val, g, .poll (left - k), 0⟩, rest⟩ (busAt s sr x tr))) := by
  induction k generalizing left with
  | zero => rfl
  | succ k ih =>
    have htake := hrun.take_step ⟨⟨.write dev reg val, g, .poll left, 0⟩, rest⟩ (busAt s sr x tr) (hmay _ _ _)
    rw [codecStep, engineStep_again rfl hflag (by omega)] at htake
    rw [List.replicate_succ, runMoves_cons_next htake, ih (by omega), Nat.sub_sub, Nat.add_comm 1 k]

/-- A flag that never comes: as many poll steps as the bound allows, then the first `BusTimeout` ends the sequence
(R117, R121, R125). -/
theorem runMoves_codec_timeout (hflag : cbFlag sr (stagePhase g) = false) {left : Nat} (hleft : 1 ≤ left) :
    runMoves (List.replicate left m) (settle (.going ⟨⟨.write dev reg val, g, .poll left, 0⟩, rest⟩ (busAt s sr x tr)))
      = .next (settle (.failed .busTimeout (busAt s 0 none (if g = .stop then tr else tr ++ [.p])))) := by
  obtain ⟨n, rfl⟩ := Nat.exists_eq_add_of_le' hleft
  have hlast := hrun.take_step ⟨⟨.write dev reg val, g, .poll (n + 1 - n), 0⟩, rest⟩ (busAt s sr x tr) (hmay _ _ _)
  rw [codecStep, engineStep_timeout rfl hflag (by omega)] at hlast
  rw [List.replicate_succ', runMoves_append (runMoves_codec_polls hrun hmay hflag (Nat.lt_succ_self n))]
  exact runMoves_cons_next hlast

/-- The first phase of the next write is never acknowledged (R115, R117, R121). -/
theorem runMoves_codec_stalled (hspin : 1 ≤ s.params.spinLimit) (e : Byte × Byte) :
    runMoves (m :: List.replicate s.params.spinLimit m) (settle (codecFrom s.params (e :: rest) (busAt s sr none tr)))
      = .next (settle (.failed .busTimeout (busAt s 0 none (tr ++ [.s] ++ [.p])))) :=
  (runMoves_cons_next (hrun.take_step _ _ (hmay _ _ _))).trans
    (runMoves_codec_timeout hrun hmay (cbFlag_clear sr .start) hspin)

end

/-! ### SETUP with a codec that stalls -/

/-- `s` after `CSTART_SEQ` was acknowledged up to the writes `pre` and stalled at the next one: nothing is configured
(R117, R121, R131). -/
def codecStalled (s : State) (pre : List (Byte × Byte)) : State :=
  invalidateConfig { s with cbClkOn := true, cbTrace := s.cbTrace ++ codecFrames s.params pre ++ [.s, .p] }

/-- The control-bus clock is turned on, and the codec stalls after the writes `pre` (R121, R130, R131). -/
theorem runMoves_codecStartStalled {m : Move} {may : State → Prop} {rate : BitVec 24}
    {settle : ProcResult SetupPos → State} (hrun : Runs m may (setupStep rate) settle) {s : State}
    (hmay : ∀ t, SameLines s t → may t) (hwait : s.cbWait = none) (hsr : s.cbSr = 0) (hspin : 1 ≤ s.params.spinLimit)
    {pre post : List (Byte × Byte)} {e : Byte × Byte} (hseq : s.params.cstartSeq = pre ++ e :: post) :
    runMoves (m :: codecAcked m pre ++ m :: List.replicate s.params.spinLimit m) (settle (.going .clockOn s))
      = .next (settle (.failed .busTimeout (codecStalled s pre))) := by
  have hidle := busAt_idle (s := { s with cbClkOn := true }) hwait hsr
  have hclock := hrun.take_step .clockOn s (hmay s ⟨rfl, rfl, rfl, rfl⟩)
  rw [setupStep_clockOn, hseq, ← hidle s.cbTrace] at hclock
  have hbus : ∀ sr x tr, may (busAt { s with cbClkOn := true } sr x tr) := fun _ _ _ => hmay _ ⟨rfl, rfl, rfl, rfl⟩
  have hacked := runMoves_codecAcked_append hrun.codec_of_setup hbus (tr := s.cbTrace) pre (e :: post)
  rw [List.cons_append, runMoves_cons_next hclock]
  refine (runMoves_append hacked).trans ((runMoves_codec_stalled hrun.codec_of_setup hbus hspin e).trans ?_)
  rw [hidle, List.append_assoc]
  rfl

/-- Settles O14: the codec stalls in the codec part of `do_setup`, after the PLL has locked. -/
theorem setupCodecTimeout : Obligations.SetupCodecTimeout := by
  intro s rate clk pre post e h hacc hrun hclk hseq
  obtain ⟨hbusy, hproc, hwait, hsr⟩ := h.idle_of_accepts hacc
  obtain ⟨-, hphase, -⟩ := (acceptsCommand_iff s).1 hacc
  obtain ⟨hrx, htx, hfe⟩ := (h.offline hrun (by simp [hphase])).masked
  have hmay : ∀ t, SameLines s t → fgMayStep t = true := fun t ⟨ephase, erx, etx, efe⟩ =>
    fgMayStep_of_masked (ephase.trans hphase) ⟨erx.trans hrx, etx.trans htx, efe.trans hfe⟩
  have hpll := runMoves_pllLocks (fg_runs_setup rate) (s := setupStarted s rate clk) (hmay _ ⟨rfl, rfl, rfl, rfl⟩) rfl
    s.params.pllSpinLimit
  have hstall := runMoves_codecStartStalled (fg_runs_setup rate) (s := pllLock (setupStarted s rate clk)) hmay hwait hsr
    h.spinLimit_pos hseq
  refine (runMoves_cons_next (take_setup hacc hrun hclk)).trans ((runMoves_append hpll).trans (hstall.trans ?_))
  simp only [settleSetup, raiseError, codecStalled, invalidateConfig, pllLock, setupStarted, hbusy, hproc]

/-! ### The faithful simulator -/

/-- The symbols of a read before its reception, where the device is asked for the byte (R123, R126). -/
def readPart (p : Params) (dev : BitVec 7) (reg : Byte) : List BusSymbol :=
  [.s, .tx (addrByte dev 0), .tx (frameByte p reg 0), .sr, .tx (addrByte dev 1)]

theorem readFrame_eq (p : Params) (dev : BitVec 7) (reg b : Byte) :
    readFrame p dev reg b = readPart p dev reg ++ [.rxNack b, .p] := rfl

/-- The address byte is the number the simulator compares with (R84). -/
theorem addrByte_toNat (dev : BitVec 7) (rw : BitVec 1) : (addrByte dev rw).toNat = 2 * dev.toNat + rw.toNat := by
  rw [addrByte, BitVec.toNat_append, ← Nat.shiftLeft_add_eq_or_of_lt rw.isLt, Nat.shiftLeft_eq]
  omega

theorem simCells_writeFrame (p : Params) (dev : BitVec 7) (reg val : Byte) (cell : Byte → Byte)
    (rest : List BusSymbol) :
    simCells dev cell (writeFrame p dev reg val ++ rest)
      = simCells dev (fun y => if y = frameByte p reg val then val else cell y) rest := by
  simp [writeFrame, simCells, addrByte_toNat]

theorem simCells_readPart (p : Params) (dev : BitVec 7) (reg : Byte) (cell : Byte → Byte) :
    simCells dev cell (readPart p dev reg) = cell := rfl

/-- A read in progress asks for its framed register byte, whatever was on the bus before it (R123 (b)). -/
theorem simReadPart_append_readPart (p : Params) (dev : BitVec 7) (reg : Byte) (seen : List BusSymbol) :
    simReadPart dev (seen ++ readPart p dev reg) = some (frameByte p reg 0) := by
  induction seen with
  | nil => simp [readPart, simReadPart, addrByte_toNat]
  | cons x seen ih =>
    rw [List.cons_append, simReadPart]
    · exact ih
    · intro a y b _ htail
      have hlen := congrArg List.length htail
      simp [readPart] at hlen

/-- After a write the simulator answers a read of the same register with the value written, if both are framed alike
(R123). -/
theorem simByte_write_read {p : Params} {reg val : Byte} (hframe : frameByte p reg val = frameByte p reg 0)
    (dev : BitVec 7) (cell : Byte → Byte) (other : Byte) :
    simByte dev cell other (writeFrame p dev reg val ++ readPart p dev reg) = val := by
  rw [simByte, simReadPart_append_readPart, simCells_writeFrame, simCells_readPart]
  simp only [hframe, if_true]

/-! ### A write and then a read -/

section
variable {s : State} (hmay : fgMayStep s = true) (hspin : 1 ≤ s.params.spinLimit) {dev : BitVec 7} {reg : Byte}
include hmay hspin

/-- A read up to its reception: the engine polls for the byte, which the device has yet to draw (R114, R126). -/
theorem runMoves_readPart (hwait : s.cbWait = none) :
    ∃ sr, cbFlag sr .rxd = false
      ∧ runMoves ((List.replicate 5 (fgAcked 0)).flatten ++ [.fg])
          (continueFg (.transaction (beginTxn (.read dev reg))) s)
        = .next (onBus s ⟨.read dev reg, .receive, .poll s.params.spinLimit, 0⟩ sr (some .rxd) s.cbRxByte
            (s.cbTrace ++ readPart s.params dev reg)) := by
  obtain ⟨sr, hphases⟩ := runMoves_ackedPhases hmay (.read dev reg) 0 (ks := List.replicate 5 0)
    (fun k hk => List.eq_of_mem_replicate hk ▸ hspin) hwait (show 5 < 7 by decide)
  refine ⟨cbFlagClear sr .rxd, cbFlag_clear sr .rxd, ?_⟩
  refine (runMoves_append hphases).trans ((runMoves_cons_next (take_fg_request hmay)).trans ?_)
  exact congrArg (fun tr => Host.Outcome.next (onBus s _ _ _ _ tr)) (List.append_nil _)

/-- The device draws the byte, and the stop phase after it is acknowledged (R114, R116, R126). -/
theorem runMoves_receivedByte {sr : BitVec 5} (hflag : cbFlag sr .rxd = false) {left : Nat} {y c : Byte}
    {tr : List BusSymbol} (b : Byte) :
    runMoves (.cbAck b :: .fg :: fgAcked 0) (onBus s ⟨.read dev reg, .receive, .poll left, y⟩ sr (some .rxd) c tr)
      = .next (succeed (b.setWidth 32) (offBus s b (tr ++ [.rxNack b, .p]))) := by
  refine (runMoves_cons_next (take_cbAck_onBus b hflag)).trans
    ((runMoves_cons_next (take_fg_next (g := .receive) hmay (cbFlag_set _ _) rfl)).trans
      ((runMoves_ackedLastPhase hmay hspin 0 rfl).trans ?_))
  simp [phaseSymbols, stageSymbol, txnResult]

end

/-- READ_REGISTER on a device that draws its byte once the engine waits for it: that byte is the result (R119, R126). -/
theorem readRegister_byteDrawnLate {s : State} (hacc : acceptsCommand s = true) (hclk : s.cbClkOn = true)
    (hrun : s.runState ≠ .running) (hwait : s.cbWait = none) (hspin : 1 ≤ s.params.spinLimit) (dev : BitVec 7)
    (reg : Byte) :
    ∃ r, runMoves (.command (encode (.readRegister dev reg)) :: (List.replicate 5 (fgAcked 0)).flatten ++ [.fg]) s
        = .next r
      ∧ r.cbWait = some .rxd ∧ r.cbTrace = s.cbTrace ++ readPart s.params dev reg
      ∧ ∀ b, ∃ u, runMoves (.cbAck b :: .fg :: fgAcked 0) r = .next u
        ∧ u.cbTrace = s.cbTrace ++ readFrame s.params dev reg b ∧ u.rspErr = .ok ∧ u.rspData = b.setWidth 32 := by
  have hmay : fgMayStep { s with cmd := encode (.readRegister dev reg) } = true := (Bool.and_eq_true_iff.1 hacc).2
  obtain ⟨sr, hflag, hpart⟩ := runMoves_readPart hmay hspin (dev := dev) (reg := reg) hwait
  refine ⟨_, (runMoves_cons_next (take_registerOp (.read dev reg) hacc hclk hrun)).trans hpart, rfl, rfl,
    fun b => ⟨_, runMoves_receivedByte hmay hspin hflag b, ?_, rfl, rfl⟩⟩
  rw [readFrame_eq, ← List.append_assoc]
  rfl

/-- `s` after a WRITE_REGISTER that the device acknowledged: the frame is on the bus (R87, R118). -/
def registerWritten (s : State) (dev : BitVec 7) (reg val : Byte) : State :=
  { s with
    cmd := encode (.writeRegister dev reg val)
    rspErr := .ok
    rspData := 0
    cbTrace := s.cbTrace ++ writeFrame s.params dev reg val }

/-- Settles O23: the write's frame sets the simulator's cell, and the read's frame selects it again. -/
theorem registerRoundTrip : Obligations.RegisterRoundTrip := by
  intro s dev reg val other cell h hacc hclk hrun hframe
  have hspin := h.spinLimit_pos
  obtain ⟨-, -, hwait, -⟩ := h.idle_of_accepts hacc
  have hwrite : runMoves (.command (encode (.writeRegister dev reg val)) :: (List.replicate 5 (fgAcked 0)).flatten) s
      = .next (registerWritten s dev reg val) :=
    writeRegisterAcknowledged s dev reg val 0 (List.replicate 5 0) h hacc hclk hrun rfl
      fun k hk => List.eq_of_mem_replicate hk ▸ hspin
  obtain ⟨r, hread, hrxd, htrace, hanswer⟩ :=
    readRegister_byteDrawnLate (s := registerWritten s dev reg val) hacc hclk hrun hwait hspin dev reg
  have hbyte : simByte dev cell other (r.cbTrace.drop s.cbTrace.length) = val := by
    rw [htrace, registerWritten, List.append_assoc, List.drop_left, simByte_write_read hframe]
  obtain ⟨u, hrest, hframes, hok, hdata⟩ := hanswer val
  exact ⟨_, r, u, hwrite, rfl, rfl, hread, hrxd, hbyte.symm ▸ hrest, hframes, hok, hdata⟩

end Sys2Proof.Machine

/-! PROOFS. START and DISABLE: step A, the word-select wait up to either of its ends, the end of the stream; and each
host operation straight after reset (R134 to R138, R189, R214, R244, R245). -/

namespace Sys2Proof.Machine

/-! ### START -/

theorem exec_start (s : State) : exec .start s = .next (settleStart (startBegin s)) := rfl

/-- A configured block arms the stream and waits for the word-select line (R134). -/
theorem startBegin_configured {s : State} (hconf : s.runState = .configured) :
    startBegin s = .going (s.wsLine, s.params.spinLimit) (armStream s) := by
  rcases startBegin_cases s with ⟨-, e⟩ | ⟨hne, -⟩
  · exact e
  · exact absurd hconf hne

/-- Settles O15: `armStream` is the whole of step A. -/
theorem startArmsBothChannels : Obligations.StartArmsBothChannels := by
  intro s hconf
  rw [exec_start, startBegin_configured hconf]
  rfl

/-! The word-select wait is written, as `do_setup` is, for whoever runs it (R134, R187). -/

section
variable {ws0 : Bool} {s : State} {left : Nat}

theorem startStep_again (hws : s.wsLine = ws0) (hleft : 1 < left) :
    startStep ws0 left s = .going (ws0, left - 1) s := by
  rcases startStep_cases ws0 left s with ⟨hne, -⟩ | ⟨-, hle, -⟩ | ⟨-, -, e⟩
  · exact absurd hws hne
  · exact absurd hleft (Nat.not_lt.2 hle)
  · exact e

theorem startStep_timeout (hws : s.wsLine = ws0) (hleft : left ≤ 1) :
    startStep ws0 left s = .failed .busTimeout (doDisable s) := by
  rcases startStep_cases ws0 left s with ⟨hne, -⟩ | ⟨-, -, e⟩ | ⟨-, hlt, -⟩
  · exact absurd hws hne
  · exact e
  · exact absurd hlt (Nat.not_lt.2 hleft)

theorem startStep_transition (hws : s.wsLine ≠ ws0) : startStep ws0 left s = .done (openStream s) := by
  rcases startStep_cases ws0 left s with ⟨-, e⟩ | ⟨heq, -⟩ | ⟨heq, -⟩
  · exact e
  · exact absurd heq hws
  · exact absurd heq hws

end

theorem startStep_mapProcs (b : Bool → Bool) (k : Option FgProc → Option FgProc)
    (d : Option RecoveryProc → Option RecoveryProc) (ws0 : Bool) (left : Nat) (s : State) :
    startStep ws0 left (mapProcs b k d s) = (startStep ws0 left s).map (mapProcs b k d) := by
  have hws : (mapProcs b k d s).wsLine = s.wsLine := rfl
  unfold startStep
  rw [hws]
  cases pollStep (s.wsLine != ws0) left <;> rfl

/-- FG runs `do_start` for START, where no handler is active and no line requests (R134, R229 (a)). -/
theorem fg_runs_start : Runs .fg (fgMayStep · = true) (fun pos => startStep pos.1 pos.2) settleStart where
  take_step pos t hmay := by
    rw [settleStart, take_fg (s := continueFg (.start pos.1 pos.2) t) rfl rfl hmay, fgStepAt, continueFg_eq_mapProcs,
      startStep_mapProcs]
    cases startStep pos.1 pos.2 t <;> rfl
  take_pllLock pos t hlock := take_of_enabled ((enabled_pllLock_iff (settleStart (.going pos t))).2 hlock)
  take_cbAck pos t b hen := by
    obtain ⟨x, hx, -⟩ := (cbAckEnabled_iff t).1 hen
    rw [take_of_enabled (m := .cbAck b) (s := settleStart (.going pos t)) hen, act, cbAck_of_wait b hx,
      cbAck_of_wait (s := settleStart (.going pos t)) b hx]
    rfl

section
variable {m : Move} {may : State → Prop} {settle : ProcResult (Bool × Nat) → State}
  (hrun : Runs m may (fun pos => startStep pos.1 pos.2) settle) {s : State} (hmay : may s) {ws0 : Bool}
  (hws : s.wsLine = ws0)
include hrun hmay hws

/-- Poll steps that see the old level only use up the bound (R13, R134). -/
theorem runMoves_startPolls {left k : Nat} (hk : k < left) :
    runMoves (List.replicate k m) (settle (.going (ws0, left) s)) = .next (settle (.going (ws0, left - k) s)) := by
  induction k generalizing left with
  | zero => rfl
  | succ k ih =>
    have htake := hrun.take_step (ws0, left) s hmay
    rw [startStep_again hws (by omega : 1 < left)] at htake
    rw [List.replicate_succ, runMoves_cons_next htake, ih (by omega), Nat.sub_sub, Nat.add_comm 1 k]

/-- A still line: as many poll steps as the bound allows, then the stream is torn down (R134, R136). -/
theorem runMoves_startTimeout {left : Nat} (hleft : 1 ≤ left) :
    runMoves (List.replicate left m) (settle (.going (ws0, left) s))
      = .next (settle (.failed .busTimeout (doDisable s))) := by
  obtain ⟨n, rfl⟩ := Nat.exists_eq_add_of_le' hleft
  have htake := hrun.take_step (ws0, n + 1 - n) s hmay
  rw [startStep_timeout hws (by omega : n + 1 - n ≤ 1)] at htake
  rw [List.replicate_succ', runMoves_append (runMoves_startPolls hrun hmay hws (Nat.lt_succ_self n)),
    runMoves_cons_next htake, runMoves_nil]

end

/-- `s` once START was accepted and step A has made its writes (R45, R134). -/
def startArmed (s : State) : State := armStream { s with cmd := 0x20000000 }

theorem startArmed_wsLine (s : State) : (startArmed s).wsLine = s.wsLine := rfl

section
variable {s : State} (hacc : acceptsCommand s = true)
include hacc

/-- Step A leaves FG free to step: it clears the causes of both channels and unmasks nothing (R134, R229 (a)). -/
theorem fgMayStep_startArmed : fgMayStep (startArmed s) = true := by
  obtain ⟨-, hphase, -, -, hfe⟩ := (acceptsCommand_iff s).1 hacc
  exact (fgMayStep_iff _).2 ⟨hphase, by simp [irqRx, startArmed], by simp [irqTx, startArmed], hfe⟩

variable (hconf : s.runState = .configured)
include hconf

/-- An accepted START of a configured block waits for the word-select line (R45, R134). -/
theorem take_start :
    take (.command 0x20000000) s = .next (settleStart (.going (s.wsLine, s.params.spinLimit) (startArmed s))) := by
  have hdec : decode 0x20000000 = .ok .start := decodeOfEncode .start
  rw [take_command hacc, accept, hdec]
  exact congrArg (fun r => Host.Outcome.next (settleStart r))
    (startBegin_configured (s := { s with cmd := 0x20000000 }) hconf)

/-- START up to the poll step that sees the line changed, after `k` that did not (R134, R148). -/
theorem runMoves_start_transition {k : Nat} (hk : k < s.params.spinLimit) :
    runMoves (.command 0x20000000 :: List.replicate k .fg ++ [.wsToggle, .fg]) s
      = .next (settleStart (.done (openStream (wsToggle (startArmed s))))) := by
  have hmay := fgMayStep_startArmed hacc
  have hchanged : (wsToggle (startArmed s)).wsLine ≠ s.wsLine := by simp [wsToggle, startArmed]
  have hopen := fg_runs_start.take_step (s.wsLine, s.params.spinLimit - k) (wsToggle (startArmed s)) hmay
  rw [startStep_transition hchanged] at hopen
  rw [List.cons_append, runMoves_cons_next (take_start hacc hconf),
    runMoves_append (runMoves_startPolls fg_runs_start hmay (startArmed_wsLine s) hk)]
  exact (runMoves_cons_next rfl).trans (runMoves_cons_next hopen)

end

/-- Settles O16: FG was free when the command was accepted, and is free again at the end. -/
theorem startRunsOnTransition : Obligations.StartRunsOnTransition := by
  intro s k hacc hconf hk
  obtain ⟨hbusy, -⟩ := (acceptsCommand_iff s).1 hacc
  rw [runMoves_start_transition hacc hconf hk]
  simp only [settleStart, succeed, openStream, wsToggle, startArmed, armStream, hbusy]

/-- Settles O17: every poll step sees the old level. -/
theorem startTimesOut : Obligations.StartTimesOut := by
  intro s hacc hconf hspin
  obtain ⟨hbusy, -⟩ := (acceptsCommand_iff s).1 hacc
  rw [runMoves_cons_next (take_start hacc hconf),
    runMoves_startTimeout fg_runs_start (fgMayStep_startArmed hacc) (startArmed_wsLine s) hspin]
  simp only [settleStart, raiseError, doDisable, startArmed, armStream, hbusy]

/-! ### DISABLE, and the failure path that contains it -/

theorem exec_disable (s : State) : exec .disable s = .next (succeed 0 (doDisable s)) := rfl

theorem doDisable_succeed (d : Word32) (s : State) : doDisable (succeed d s) = succeed d (doDisable s) := rfl

/-- A second teardown finds nothing left to do (R138). -/
theorem doDisable_doDisable (s : State) : doDisable (doDisable s) = doDisable s := by
  have hrec : (doDisable s).recState ≠ .frameErrorPending := by
    rw [doDisable_recState]
    split
    · exact nofun
    · assumption
  have hrest : doDisable (doDisable s) = { doDisable s with
    recState := if (doDisable s).recState = .frameErrorPending then .normal else (doDisable s).recState } := rfl
  rw [hrest, if_neg hrec]

/-- Settles O18: `doDisable` is all that DISABLE does to the stream. -/
theorem disableEndState : Obligations.DisableEndState := by
  intro s
  refine ⟨_, exec_disable s, ?_, rfl⟩
  rw [exec_disable, doDisable_succeed, doDisable_doDisable]
  rfl

/-- Settles O58: the teardown, then the failure recorded, in one step. -/
theorem recoveryFailureStep : Obligations.RecoveryFailureStep := by
  intro s e hphase hproc _
  rw [take_disp hphase hproc]
  rfl

/-! ### Host operations straight after reset -/

theorem bitsValue_replicate_false (n : Nat) : bitsValue (List.replicate n false) = 0 := by
  induction n with
  | zero => rfl
  | succ n ih => simp only [List.replicate_succ, bitsValue, ih, Bool.toNat_false]

/-- A status word with no bit set (R204). -/
theorem packBits_replicate_false (n : Nat) : packBits (List.replicate n false) = 0 := by
  rw [packBits, bitsValue_replicate_false]
  rfl

/-- At reset every status value is 0 but the ownership bit's (R47, R204, R240). -/
theorem statusWord_reset (p : Params) (n : StatusName) :
    statusWord (State.resetWith p) n = if n = .readyHalf then 1 else 0 := by
  cases n
  case faultFlags => exact packBits_replicate_false 2
  case enables => exact packBits_replicate_false 13
  case rxFlags => exact packBits_replicate_false 8
  case txFlags => exact packBits_replicate_false 8
  all_goals rfl

theorem ofSelector_eq_readyHalf_iff (sel : BitVec 4) : StatusName.ofSelector sel = .readyHalf ↔ sel = 11 := by
  revert sel
  decide

/-- Settles O33, operation by operation. -/
theorem operationsAfterReset : Obligations.OperationsAfterReset := by
  rintro p s rfl
  refine ⟨fun rate clk hclk => ?_, fun rate hrate => ?_, rfl, ?_, fun sel => ?_, rfl⟩
  · exact setupBegins (State.resetWith p) rate clk hclk nofun
  · rw [exec_setup, setupBegin_unsupported hrate]
    rfl
  · rintro i (rfl | ⟨dev, reg, val, rfl⟩ | ⟨dev, reg, rfl⟩ | ⟨sel, rfl⟩) <;> rfl
  · rw [exec_getStatus, statusWord_reset]
    simp only [ofSelector_eq_readyHalf_iff]
    rfl

end Sys2Proof.Machine

/-! PROOFS. Prompt streaming: block after block, each received in order and served by a callback before the next one
arrives (R142, R147, R152, R168, R169, R174, R178). -/

namespace Sys2Proof.Machine

/-! ### Blocks, halves and items -/

theorem blockItemsRx_pos {p : Params} (hp : p.Valid) : 0 < p.blockItemsRx :=
  Nat.pos_of_mul_pos_left (nRx_pos hp)

theorem eventHalf_val (n : Nat) : (eventHalf n).val = n % 2 := by
  rcases Nat.mod_two_eq_zero_or_one n with h | h <;> simp [eventHalf, h]

/-- Item `i` of block `n` of a stream stands in the half of the `n`-th event (R67, R142). -/
theorem blockItem_mod {b i : Nat} (n : Nat) (hi : i < b) : (n * b + i) % (2 * b) = (eventHalf n).val * b + i := by
  have hsplit : n * b + i = 2 * b * (n / 2) + ((eventHalf n).val * b + i) := by
    rw [eventHalf_val]
    conv_lhs => rw [← Nat.div_add_mod n 2]
    ring
  rw [hsplit, Nat.mul_add_mod, Nat.mod_eq_of_lt (halfItem_lt _ hi)]

theorem eventHalf_add_two (n : Nat) : eventHalf (n + 2) = eventHalf n := by
  simp only [eventHalf, Nat.add_mod_right]

/-- Consecutive blocks stand in different halves (R67, R142). -/
theorem blockItem_ne_of_succ {b i j : Nat} (n : Nat) (hi : i < b) (hj : j < b) :
    (eventHalf (n + 1)).val * b + j ≠ (eventHalf n).val * b + i := by
  rw [eventHalf_val, eventHalf_val]
  rcases Nat.mod_two_eq_zero_or_one n with h | h
  · rw [h, Nat.succ_mod_two_eq_one_iff.2 h]
    omega
  · rw [h, Nat.succ_mod_two_eq_zero_iff.2 h]
    omega

/-- The half-transfer event falls with the last item of an even block, the full-transfer event with that of an odd one
(R141, R142). -/
theorem half_reached {b i : Nat} (n : Nat) :
    (eventHalf n).val * b + i + 1 = 2 * b / 2 ↔ i + 1 = b ∧ n % 2 = 0 := by
  rw [Nat.mul_div_cancel_left b Nat.two_pos, eventHalf_val]
  rcases Nat.mod_two_eq_zero_or_one n with h | h <;> rw [h] <;> omega

theorem full_reached {b i : Nat} (n : Nat) (hi : i < b) :
    (eventHalf n).val * b + i + 1 = 2 * b ↔ i + 1 = b ∧ n % 2 = 1 := by
  rw [eventHalf_val]
  rcases Nat.mod_two_eq_zero_or_one n with h | h <;> rw [h] <;> omega

section
variable {p : Params} {i j : Nat}

/-- The items of the two buffers do not overlap (R61). -/
theorem rxItemAddr_apart (hp : p.Valid) (hi : i < p.nRx) (hj : j < p.nTx) :
    rxItemAddr p i + 1 < txItemAddr p j ∨ txItemAddr p j + 1 < rxItemAddr p i := by
  obtain ⟨-, -, -, -, -, hapart, -⟩ := hp
  simp only [Params.dbufBytesRx, Params.dbufBytesTx, Config.itemBytes] at hapart
  simp only [rxItemAddr, txItemAddr]
  omega

theorem itemAt_writeItem_rx_of_ne (m : Memory) (w : Item) (hne : j ≠ i) :
    (m.writeItem (rxItemAddr p i) w).itemAt (rxItemAddr p j) = m.itemAt (rxItemAddr p j) :=
  Memory.itemAt_writeItem_ne m w (by simp only [rxItemAddr]; omega)

theorem itemAt_writeItem_tx_of_ne (m : Memory) (w : Item) (hne : j ≠ i) :
    (m.writeItem (txItemAddr p i) w).itemAt (txItemAddr p j) = m.itemAt (txItemAddr p j) :=
  Memory.itemAt_writeItem_ne m w (by simp only [txItemAddr]; omega)

theorem itemAt_tx_writeItem_rx (hp : p.Valid) (m : Memory) (w : Item) (hi : i < p.nRx) (hj : j < p.nTx) :
    (m.writeItem (rxItemAddr p i) w).itemAt (txItemAddr p j) = m.itemAt (txItemAddr p j) :=
  Memory.itemAt_writeItem_ne m w (rxItemAddr_apart hp hi hj).symm

theorem itemAt_rx_writeItem_tx (hp : p.Valid) (m : Memory) (w : Item) (hi : i < p.nTx) (hj : j < p.nRx) :
    (m.writeItem (txItemAddr p i) w).itemAt (rxItemAddr p j) = m.itemAt (rxItemAddr p j) :=
  Memory.itemAt_writeItem_ne m w (rxItemAddr_apart hp hj hi)

end

/-! ### A running stream -/

section
variable {s : State} (h : Inv s) (hrun : s.runState = .running)
include h hrun

theorem Inv.dmaRxEnabled_of_running : dmaRxEnabled s = true := by
  obtain ⟨-, hclk, hext, -⟩ := h.runState.running_enables hrun
  obtain ⟨hrx, -, hbus⟩ := h.stream.one_switch
  simp only [dmaRxEnabled, hrx, hbus, hclk, hext, Bool.and_true]

theorem Inv.dmaTxEnabled_of_running : dmaTxEnabled s = true := by
  obtain ⟨-, hclk, -⟩ := h.runState.running_enables hrun
  obtain ⟨-, htx, hbus⟩ := h.stream.one_switch
  simp only [dmaTxEnabled, htx, hbus, hclk, Bool.and_true]

/-- While the block runs, any receive cause requests (R31, R38, R134). -/
theorem Inv.irqRx_of_running : irqRx s = (s.rxFlags.ht || s.rxFlags.tc || s.rxFlags.te || s.rxFlags.dme) := by
  obtain ⟨hvalid, -, -, hline, -⟩ := h.runState.running_enables hrun
  obtain ⟨-, -, hirq, -⟩ := h.runState.valid_config hvalid
  simp only [irqRx, hline, hirq, Bool.and_true, Bool.true_and]

end

/-- After `n` blocks of a prompt run, the next one about to arrive: nothing pending, nothing active, the progress
sampled (R53, R178 (1)). -/
structure BetweenBlocks (n : Nat) (s : State) : Prop where
  inv : Inv s
  running : s.runState = .running
  normal : s.recState = .normal
  idle : s.dispPhase = .idle
  no_causes : s.rxFlags = ⟨false, false, false, false⟩
  received : s.rxProgress = n * s.params.blockItemsRx
  sampled : s.lastProgress = s.rxProgress

theorem JustStarted.betweenBlocks {s : State} (h : JustStarted s) : BetweenBlocks 0 s := by
  obtain ⟨hrx, -, hlast⟩ := h.no_items
  exact ⟨h.inv, h.running, h.normal, h.idle, h.no_causes, hrx.trans (Nat.zero_mul _).symm, hlast.trans hrx.symm⟩

/-! ### Inside a block -/

/-- The receive causes in block `n`: none before its last item, then its one event (R142). -/
def blockFlags (n : Nat) (full : Bool) : RxCauses :=
  ⟨full && decide (n % 2 = 0), full && decide (n % 2 = 1), false, false⟩

theorem blockFlags_false (n : Nat) : blockFlags n false = ⟨false, false, false, false⟩ := rfl

/-- `s` with the words `ws` received and `sent` sent, and these values of what else the channels move (R141, R143). -/
def movedItems (s : State) (m : Memory) (fl : RxCauses) (c c' : BitVec 16) (ws sent : List Item) : State :=
  { s with
    mem := m
    rxFlags := fl
    rxNdtr := c
    txNdtr := c'
    rxProgress := s.rxProgress + ws.length
    txProgress := s.txProgress + sent.length
    rxTrace := s.rxTrace ++ ws
    txTrace := s.txTrace ++ sent }

theorem movedItems_nil (s : State) : movedItems s s.mem s.rxFlags s.rxNdtr s.txNdtr [] [] = s := by
  simp only [movedItems, List.length_nil, Nat.add_zero, List.append_nil]

theorem rxAdvance_movedItems (s : State) (m m' : Memory) (fl : RxCauses) (c c' : BitVec 16) (ws sent : List Item)
    (w : Item) : ∃ fl' d, rxAdvance { movedItems s m fl c c' ws sent with
        mem := m', rxTrace := (movedItems s m fl c c' ws sent).rxTrace ++ [w] }
      = movedItems s m' fl' d c' (ws ++ [w]) sent := by
  simp only [movedItems, List.length_append, ← List.append_assoc]
  exact ⟨_, _, rfl⟩

theorem txAdvance_movedItems (s : State) (m : Memory) (fl : RxCauses) (c c' : BitVec 16) (ws sent : List Item)
    (w : Item) : ∃ d, txAdvance { movedItems s m fl c c' ws sent with
        txTrace := (movedItems s m fl c c' ws sent).txTrace ++ [w] }
      = movedItems s m fl c d ws (sent ++ [w]) := by
  simp only [movedItems, List.length_append, ← List.append_assoc]
  exact ⟨_, rfl⟩

/-- What holds inside block `n`, which began in `s`, after `ws` were received and `sent` were sent: the block's items
stand in its half of the receive buffer, and the transmit buffer is as it was. -/
structure InBlock (n : Nat) (s : State) (ws sent : List Item) (t : State) : Prop where
  inv : Inv t
  moved : ∃ m fl c c', t = movedItems s m fl c c' ws sent
  flags : t.rxFlags = blockFlags n (decide (ws.length = s.params.blockItemsRx))
  rxItems : ∀ i, (hi : i < ws.length) →
    t.mem.itemAt (rxItemAddr s.params ((eventHalf n).val * s.params.blockItemsRx + i)) = some ws[i]
  txItems : ∀ j < s.params.nTx, t.mem.itemAt (txItemAddr s.params j) = s.mem.itemAt (txItemAddr s.params j)

theorem BetweenBlocks.inBlock_nil {n : Nat} {s : State} (h : BetweenBlocks n s) : InBlock n s [] [] s where
  inv := h.inv
  moved := ⟨_, _, _, _, (movedItems_nil s).symm⟩
  flags := by
    have hpos := blockItemsRx_pos h.inv.params_valid
    rw [h.no_causes, List.length_nil, decide_eq_false hpos.ne, blockFlags_false]
  rxItems i hi := absurd hi (Nat.not_lt_zero i)
  txItems _ _ := rfl

section
variable {n : Nat} {s t : State} {ws sent : List Item} (ht : InBlock n s ws sent t)
include ht

theorem InBlock.params : t.params = s.params := by
  obtain ⟨m, fl, c, c', rfl⟩ := ht.moved
  rfl

theorem InBlock.txProgress : t.txProgress = s.txProgress + sent.length := by
  obtain ⟨m, fl, c, c', rfl⟩ := ht.moved
  rfl

variable (h : BetweenBlocks n s)
include h

theorem InBlock.rxProgress : t.rxProgress = n * s.params.blockItemsRx + ws.length := by
  obtain ⟨m, fl, c, c', rfl⟩ := ht.moved
  exact congrArg (· + ws.length) h.received

theorem InBlock.running : t.runState = .running := by
  obtain ⟨m, fl, c, c', rfl⟩ := ht.moved
  exact h.running

theorem InBlock.rxProgress_mod (hlt : ws.length < s.params.blockItemsRx) :
    t.rxProgress % t.params.nRx = (eventHalf n).val * s.params.blockItemsRx + ws.length := by
  rw [ht.rxProgress h, ht.params]
  exact blockItem_mod n hlt

/-- The next word of the block goes to its item; the block's event falls with its last word (R141, R142). -/
theorem InBlock.receive (hlt : ws.length < s.params.blockItemsRx) (w : Item) :
    ∃ u, take (.dmaRx w) t = .next u ∧ InBlock n s (ws ++ [w]) sent u := by
  have hclk := ht.inv.clocksOn_of_running (ht.running h)
  have hstep := take_dmaRx ht.inv (ht.inv.dmaRxEnabled_of_running (ht.running h)) w
  have hidx := ht.rxProgress_mod h hlt
  have haddr : rxItemAddr t.params t.rxIdx
      = rxItemAddr s.params ((eventHalf n).val * s.params.blockItemsRx + ws.length) := by
    rw [ht.inv.rxIdx_eq hclk, hidx, ht.params]
  refine ⟨_, hstep, ?_⟩
  constructor
  case inv => exact take_inv ht.inv hstep
  case moved =>
    obtain ⟨m, fl, c, c', rfl⟩ := ht.moved
    obtain ⟨fl', d, e⟩ := rxAdvance_movedItems s m _ fl c c' ws sent w
    exact ⟨_, fl', d, c', e⟩
  case flags =>
    have hfl := ht.flags
    rw [decide_eq_false hlt.ne, blockFlags_false] at hfl
    have hflags : (rxAdvance t).rxFlags = _ := ht.inv.rxAdvance_flags hclk hfl
    change (rxAdvance t).rxFlags = _
    rw [hflags, hidx, ht.params, List.length_append, List.length_singleton, blockFlags, ← Bool.decide_and,
      ← Bool.decide_and]
    simp only [Bool.false_or, half_reached n, full_reached n hlt]
  case rxItems =>
    intro i hi
    change (t.mem.writeItem (rxItemAddr t.params t.rxIdx) w).itemAt _ = _
    rw [haddr]
    rw [List.length_append, List.length_singleton] at hi
    rcases Nat.lt_succ_iff_lt_or_eq.1 hi with hlt | rfl
    · rw [itemAt_writeItem_rx_of_ne _ _ (by omega), ht.rxItems i hlt, List.getElem_append_left hlt]
    · rw [Memory.itemAt_writeItem, List.getElem_concat_length rfl]
  case txItems =>
    intro j hj
    change (t.mem.writeItem (rxItemAddr t.params t.rxIdx) w).itemAt _ = _
    rw [haddr, itemAt_tx_writeItem_rx h.inv.params_valid _ _ (halfItem_lt _ hlt) hj, ht.txItems j hj]

/-- The next item of the transmit buffer goes out (R143). -/
theorem InBlock.send {w : Item}
    (hw : s.mem.itemAt (txItemAddr s.params ((s.txProgress + sent.length) % s.params.nTx)) = some w) :
    ∃ u, take .dmaTx t = .next u ∧ InBlock n s ws (sent ++ [w]) u := by
  have hclk := ht.inv.clocksOn_of_running (ht.running h)
  have hitem : t.mem.itemAt (txItemAddr t.params t.txIdx) = some w := by
    rw [ht.inv.txIdx_eq hclk, ht.txProgress, ht.params,
      ht.txItems _ (Nat.mod_lt _ (nTx_pos h.inv.params_valid)), hw]
  have hstep := take_dmaTx ht.inv (ht.inv.dmaTxEnabled_of_running (ht.running h)) hitem
  refine ⟨_, hstep, take_inv ht.inv hstep, ?_, ht.flags, ht.rxItems, ht.txItems⟩
  obtain ⟨m, fl, c, c', rfl⟩ := ht.moved
  obtain ⟨d, e⟩ := txAdvance_movedItems s m fl c c' ws sent w
  exact ⟨m, fl, c, d, e⟩

end

/-! ### A block served -/

/-- DISP's entry on the event of block `n`: the half is latched and the callback invoked (R163, R164, R167, R174). -/
def calledBack (n : Nat) (s : State) : State :=
  { s with
    rxFlags := ⟨false, false, false, false⟩
    readyHalf := eventHalf n
    dispHalf := eventHalf n
    dispBlock := true
    callbackCount := satInc s.callbackCount
    callTrace := s.callTrace ++ [eventHalf n]
    dispPhase := .callback
    dispProc := none }

theorem dispEntry_eq_calledBack {n : Nat} {s : State} (hfl : s.rxFlags = blockFlags n true)
    (hnormal : s.recState = .normal) : dispEntry s = calledBack n s := by
  rcases Nat.mod_two_eq_zero_or_one n with h | h <;>
    simp [dispEntry, dispHandoff, takeRxTe, takeRxDme, takeRxTc, takeRxHt, invokeCallback, calledBack, blockFlags,
      eventHalf, hfl, hnormal, h]

/-- DISP's exit after at most a buffer's worth of items: no underrun is noted (R172, R173). -/
theorem take_dispExit_prompt {s : State} (hcall : s.dispPhase = .callback)
    (hprompt : s.rxProgress - s.lastProgress ≤ s.params.nRx) : take .dispExit s = .next (sampleProgress s) := by
  have hdelta : ¬deltaBytes s > s.params.dbufBytesRx := by
    simp only [deltaBytes, Params.dbufBytesRx, Config.itemBytes]
    omega
  have hen : enabled .dispExit s = true := decide_eq_true hcall
  rw [take_of_enabled hen, act, dispExit_eq, Function.comp_apply, noteUnderrun, if_neg hdelta]

/-- `s` after a block: items moved, and the callback has left the memory `m` and returned. -/
def blockServed (n : Nat) (s : State) (m : Memory) (c c' : BitVec 16) (ws sent : List Item) : State :=
  sampleProgress (calledBack n (movedItems s m s.rxFlags c c' ws sent))

section
variable {n : Nat} {s t : State} {ws sent : List Item} (h : BetweenBlocks n s) (ht : InBlock n s ws sent t)
  (hlen : ws.length = s.params.blockItemsRx)
include h ht hlen

/-- A whole block has arrived: its event calls the callback (R142, R165, R174). -/
theorem InBlock.take_dispEntry : take .dispEntry t = .next (calledBack n t) := by
  have hflags : t.rxFlags = blockFlags n true := by rw [ht.flags, decide_eq_true hlen]
  have hirq : irqRx t = true := by
    rw [ht.inv.irqRx_of_running (ht.running h), hflags, blockFlags]
    rcases Nat.mod_two_eq_zero_or_one n with hn | hn <;> simp [hn]
  obtain ⟨hidle, hnormal⟩ : t.dispPhase = .idle ∧ t.recState = .normal := by
    obtain ⟨m, fl, c, c', rfl⟩ := ht.moved
    exact ⟨h.idle, h.normal⟩
  rw [take_of_enabled ((enabled_dispEntry_iff t).2 ⟨hidle, hirq⟩), act, dispEntry_eq_calledBack hflags hnormal]

/-- The callback returns, whatever memory `m` it has left, and the next block may arrive (R172, R178 (1)). -/
theorem InBlock.take_dispExit {m : Memory} (hinv : Inv { calledBack n t with mem := m }) :
    ∃ c c', take .dispExit { calledBack n t with mem := m } = .next (blockServed n s m c c' ws sent)
      ∧ BetweenBlocks (n + 1) (blockServed n s m c c' ws sent) := by
  have hprogress := ht.rxProgress h
  obtain ⟨m', fl, c, c', rfl⟩ := ht.moved
  have hprompt : s.rxProgress + ws.length - s.lastProgress ≤ s.params.nRx := by
    rw [h.sampled, hlen, Nat.add_sub_cancel_left]
    exact Nat.le_mul_of_pos_left _ Nat.two_pos
  have hexit : take .dispExit { calledBack n (movedItems s m' fl c c' ws sent) with mem := m }
      = .next (blockServed n s m c c' ws sent) :=
    take_dispExit_prompt (s := { calledBack n (movedItems s m' fl c c' ws sent) with mem := m }) rfl hprompt
  refine ⟨c, c', hexit, take_inv hinv hexit, h.running, h.normal, rfl, rfl, ?_, rfl⟩
  exact hprogress.trans ((congrArg (_ + ·) hlen).trans (Nat.succ_mul _ _).symm)

end

/-! ### Blocks that the callback only hears of -/

section
variable {n : Nat} {s : State} (h : BetweenBlocks n s)
include h

theorem BetweenBlocks.receive {ws : List Item} (hle : ws.length ≤ s.params.blockItemsRx) :
    ∃ t, runMoves (ws.map .dmaRx) s = .next t ∧ InBlock n s ws [] t := by
  induction ws using List.reverseRecOn with
  | nil => exact ⟨s, rfl, h.inBlock_nil⟩
  | append_singleton ws w ih =>
    rw [List.length_append, List.length_singleton] at hle
    obtain ⟨t, hrun, ht⟩ := ih (Nat.le_of_succ_le hle)
    obtain ⟨u, hstep, hu⟩ := ht.receive h hle w
    refine ⟨u, ?_, hu⟩
    rw [List.map_append, runMoves_append hrun, List.map_singleton, runMoves_cons_next hstep, runMoves_nil]

theorem BetweenBlocks.runMoves_promptBlock {ws : List Item} (hlen : ws.length = s.params.blockItemsRx) :
    ∃ m c c', runMoves (promptBlock ws) s = .next (blockServed n s m c c' ws [])
      ∧ BetweenBlocks (n + 1) (blockServed n s m c c' ws []) := by
  obtain ⟨t, hrun, ht⟩ := h.receive hlen.le
  have hentry := ht.take_dispEntry h hlen
  obtain ⟨c, c', hexit, hnext⟩ := ht.take_dispExit h hlen (m := t.mem) (take_inv ht.inv hentry)
  refine ⟨t.mem, c, c', ?_, hnext⟩
  rw [promptBlock, runMoves_append hrun, runMoves_cons_next hentry]
  exact runMoves_cons_next hexit

end

/-- What a run of prompt blocks leaves, block `n` the first (R174, R178). -/
structure PromptRun (n : Nat) (s : State) (blocks : List (List Item)) (t : State) : Prop where
  callTrace : t.callTrace = s.callTrace ++ (List.range' n blocks.length).map eventHalf
  callbackCount : t.callbackCount = satInc^[blocks.length] s.callbackCount
  underrun : t.underrunFlag = s.underrunFlag ∧ t.underrunCount = s.underrunCount
  recovery : t.recoveryCount = s.recoveryCount ∧ t.recoveryFailCount = s.recoveryFailCount
  running : t.runState = .running
  rxTrace : t.rxTrace = s.rxTrace ++ blocks.flatten

theorem BetweenBlocks.promptRun {blocks : List (List Item)} {n : Nat} {s : State} (h : BetweenBlocks n s)
    (hlen : ∀ ws ∈ blocks, ws.length = s.params.blockItemsRx) :
    ∃ t, runMoves (blocks.flatMap promptBlock) s = .next t ∧ PromptRun n s blocks t := by
  induction blocks generalizing n s with
  | nil => exact ⟨s, rfl, (List.append_nil _).symm, rfl, ⟨rfl, rfl⟩, ⟨rfl, rfl⟩, h.running, (List.append_nil _).symm⟩
  | cons ws blocks ih =>
    obtain ⟨hws, hrest⟩ := List.forall_mem_cons.1 hlen
    obtain ⟨m, c, c', hblock, hnext⟩ := h.runMoves_promptBlock hws
    obtain ⟨t, hrun, ht⟩ := ih hnext hrest
    refine ⟨t, ?_, ?_, ht.callbackCount, ht.underrun, ht.recovery, ht.running, ?_⟩
    · rw [List.flatMap_cons, runMoves_append hblock, hrun]
    · rw [ht.callTrace, List.length_cons, List.range'_succ, List.map_cons]
      exact List.append_assoc _ [eventHalf n] _
    · rw [ht.rxTrace, List.flatten_cons]
      exact List.append_assoc _ ws _

/-- Settles O52: a stream that has just started is before its block 0. -/
theorem promptRunAlternatesHalves : Obligations.PromptRunAlternatesHalves := by
  intro s blocks h hlen
  obtain ⟨t, hrun, ht⟩ := h.betweenBlocks.promptRun hlen
  obtain ⟨hflag, hcount⟩ := ht.underrun
  obtain ⟨hok, hfail⟩ := ht.recovery
  rw [List.range_eq_range']
  exact ⟨t, hrun, ht.callTrace, ht.callbackCount, hflag, hcount, hok, hfail, ht.running, ht.rxTrace⟩

/-! ### The copy callback -/

theorem runEach_append {α : Type} {f : α → State → Outcome} {as bs : List α} {s t : State}
    (h : runEach f as s = .next t) : runEach f (as ++ bs) s = runEach f bs t := by
  induction as generalizing s with
  | nil =>
    cases h
    rfl
  | cons a as ih =>
    rw [List.cons_append]
    rw [runEach] at h ⊢
    cases ha : f a s with
    | next u =>
      rw [ha] at h
      exact ih h
    | fault e =>
      rw [ha] at h
      cases h
    | refused e =>
      rw [ha] at h
      cases h

/-- What the copy callback has left in memory after the first `k` items of its half: these items copied, and everything
else as it was (R168 to R170). -/
structure Copied (s : State) (k : Nat) (m : Memory) : Prop where
  inv : Inv { s with mem := m }
  rxItems : ∀ j < s.params.nRx, m.itemAt (rxItemAddr s.params j) = s.mem.itemAt (rxItemAddr s.params j)
  copied : ∀ i < k, m.itemAt (txItemAddr s.params (s.dispHalf.val * s.params.blockItemsTx + i))
    = s.mem.itemAt (rxItemAddr s.params (s.dispHalf.val * s.params.blockItemsRx + i))
  others : ∀ j < s.params.nTx, (∀ i < k, j ≠ s.dispHalf.val * s.params.blockItemsTx + i) →
    m.itemAt (txItemAddr s.params j) = s.mem.itemAt (txItemAddr s.params j)

theorem Copied.next {s : State} {k : Nat} {m : Memory} (h : Copied s k m) (hcall : s.dispPhase = .callback)
    (hk : k < s.params.blockItemsRx) :
    ∃ m', copyItem k { s with mem := m } = .next { s with mem := m' } ∧ Copied s (k + 1) m' := by
  have hp : s.params.Valid := h.inv.params_valid
  have hrx := halfItem_lt s.dispHalf hk
  have htx : s.dispHalf.val * s.params.blockItemsTx + k < s.params.nTx := halfItem_lt s.dispHalf hk
  have haddr := isItemAddr_cbWrite (s := { s with mem := m }) hk
  obtain ⟨w, hw, hread⟩ := h.inv.cbReadValue_ok hcall hk
  have hstep := copyItem_next (s := { s with mem := m }) hcall hk hread haddr
  have hinv := h.inv.writeItem w haddr
  rw [cbReadAddr_eq] at hw
  rw [cbWriteAddr_eq] at hstep hinv
  refine ⟨_, hstep, hinv, fun j hj => ?_, fun i hi => ?_, fun j hj hne => ?_⟩
  · exact (itemAt_rx_writeItem_tx hp m w htx hj).trans (h.rxItems j hj)
  · rcases Nat.lt_succ_iff_lt_or_eq.1 hi with hlt | rfl
    · have hne : s.dispHalf.val * s.params.blockItemsTx + i ≠ s.dispHalf.val * s.params.blockItemsTx + k :=
        fun heq => hlt.ne (Nat.add_left_cancel heq)
      exact (itemAt_writeItem_tx_of_ne m w hne).trans (h.copied i hlt)
    · exact (Memory.itemAt_writeItem m _ w).trans (hw.symm.trans (h.rxItems _ hrx))
  · exact (itemAt_writeItem_tx_of_ne m w (hne k (Nat.lt_succ_self k))).trans
      (h.others j hj fun i hi => hne i (Nat.lt_succ_of_lt hi))

/-- The copy callback over the items of its half, in order (R178 (3)). -/
theorem runEach_copyItem {s : State} (h : Inv s) (hcall : s.dispPhase = .callback) {k : Nat}
    (hk : k ≤ s.params.blockItemsRx) :
    ∃ m, runEach copyItem (List.range k) s = .next { s with mem := m } ∧ Copied s k m := by
  induction k with
  | zero => exact ⟨s.mem, rfl, h, fun _ _ => rfl, fun i hi => absurd hi (Nat.not_lt_zero i), fun _ _ _ => rfl⟩
  | succ k ih =>
    obtain ⟨m, hrun, hm⟩ := ih (Nat.le_of_succ_le hk)
    obtain ⟨m', hstep, hm'⟩ := hm.next hcall hk
    exact ⟨m', by rw [List.range_succ, runEach_append hrun, runEach_cons_next hstep, runEach_nil], hm'⟩

/-! ### Blocks copied -/

/-- After `n` copied blocks: as much was sent as received, and `q` is what the transmit buffer holds, in the order it is
to be sent (R143, R147). -/
structure CopyQueue (n : Nat) (q : List Item) (s : State) : Prop where
  between : BetweenBlocks n s
  sent : s.txProgress = n * s.params.blockItemsTx
  full : q.length = s.params.nTx
  queued : ∀ j, (hj : j < q.length) →
    s.mem.itemAt (txItemAddr s.params ((n * s.params.blockItemsTx + j) % s.params.nTx)) = some q[j]

section
variable {n : Nat} {q ws : List Item} {s : State} (h : CopyQueue n q s)
include h

/-- While a block arrives, as much of the queue goes out (R147). -/
theorem CopyQueue.exchange (hle : ws.length ≤ s.params.blockItemsRx) :
    ∃ t, runMoves (ws.flatMap fun w => [.dmaTx, .dmaRx w]) s = .next t ∧ InBlock n s ws (q.take ws.length) t := by
  induction ws using List.reverseRecOn with
  | nil => exact ⟨s, rfl, h.between.inBlock_nil⟩
  | append_singleton ws w ih =>
    rw [List.length_append, List.length_singleton] at hle ⊢
    obtain ⟨t, hrun, ht⟩ := ih (Nat.le_of_succ_le hle)
    have hlt : ws.length < q.length := by
      rw [h.full]
      exact Nat.lt_of_lt_of_le hle (Nat.le_mul_of_pos_left _ Nat.two_pos)
    have hitem := h.queued ws.length hlt
    rw [← h.sent] at hitem
    obtain ⟨u, hsend, hu⟩ := ht.send h.between (w := q[ws.length])
      (by rw [List.length_take_of_le hlt.le]; exact hitem)
    obtain ⟨v, hreceive, hv⟩ := hu.receive h.between hle w
    refine ⟨v, ?_, by rwa [List.take_succ_eq_append_getElem hlt]⟩
    rw [List.flatMap_append, runMoves_append hrun, List.flatMap_singleton, runMoves_cons_next hsend,
      runMoves_cons_next hreceive, runMoves_nil]

variable (hlen : ws.length = s.params.blockItemsRx)
include hlen

theorem CopyQueue.block_le : ws.length ≤ q.length := by
  rw [h.full, hlen]
  exact Nat.le_mul_of_pos_left _ Nat.two_pos

/-- The transmit buffer after a block, its own half copied and the other as it was, is the queue one block further on. -/
theorem CopyQueue.queued_next {m : Memory}
    (hcopied : ∀ i, (hi : i < ws.length) →
      m.itemAt (txItemAddr s.params ((eventHalf n).val * s.params.blockItemsTx + i)) = some ws[i])
    (hothers : ∀ j < s.params.nTx, (∀ i < ws.length, j ≠ (eventHalf n).val * s.params.blockItemsTx + i) →
      m.itemAt (txItemAddr s.params j) = s.mem.itemAt (txItemAddr s.params j))
    (j : Nat) (hj : j < (q.drop ws.length ++ ws).length) :
    m.itemAt (txItemAddr s.params (((n + 1) * s.params.blockItemsTx + j) % s.params.nTx))
      = some (q.drop ws.length ++ ws)[j] := by
  have hb : s.params.blockItemsTx = ws.length := hlen.symm
  have hn : s.params.nTx = 2 * ws.length := congrArg (2 * ·) hb
  have hdrop : (q.drop ws.length).length = ws.length := by
    rw [List.length_drop, h.full, hn, Nat.two_mul, Nat.add_sub_cancel]
  rw [List.length_append, hdrop] at hj
  rw [hb] at hcopied hothers ⊢
  by_cases hfront : j < ws.length
  · have hmod := blockItem_mod (n + 1) hfront
    have hother := hothers _ (Nat.mod_lt ((n + 1) * ws.length + j) (hn ▸ by omega))
      fun i hi => by rw [hn, hmod]; exact blockItem_ne_of_succ n hi hfront
    have hqueued := h.queued (ws.length + j) (by rw [h.full, hn]; omega)
    rw [hb, ← Nat.add_assoc, ← Nat.succ_mul] at hqueued
    rw [hother, hqueued, List.getElem_append_left (hdrop.symm ▸ hfront), List.getElem_drop]
  · obtain ⟨i, rfl⟩ := Nat.exists_eq_add_of_le (Nat.le_of_not_lt hfront)
    have hi : i < ws.length := Nat.lt_of_add_lt_add_left hj
    have hmod := blockItem_mod (n + 2) hi
    rw [eventHalf_add_two] at hmod
    rw [hn, ← Nat.add_assoc, ← Nat.succ_mul, hmod, hcopied i hi, List.getElem_append_right (by omega)]
    simp only [hdrop, Nat.add_sub_cancel_left]

/-- One block: a block of the queue goes out at its front, and the block received is queued behind (R147, R178 (3)). -/
theorem CopyQueue.block_copied :
    ∃ m c c', runCopyBlock ws s = .next (blockServed n s m c c' ws (q.take ws.length))
      ∧ CopyQueue (n + 1) (q.drop ws.length ++ ws) (blockServed n s m c c' ws (q.take ws.length)) := by
  obtain ⟨t, hrun, ht⟩ := h.exchange hlen.le
  have hentry := ht.take_dispEntry h.between hlen
  have hblock : (calledBack n t).params.blockItemsRx = ws.length := by rw [hlen, ← ht.params]; rfl
  obtain ⟨m, hcopy, hm⟩ := runEach_copyItem (take_inv ht.inv hentry) rfl (Nat.le_refl _)
  obtain ⟨c, c', hexit, hnext⟩ := ht.take_dispExit h.between hlen hm.inv
  have hle := h.block_le hlen
  refine ⟨m, c, c', ?_, hnext, ?_, ?_, h.queued_next hlen (fun i hi => ?_) fun j hj hne => ?_⟩
  · rw [runCopyBlock, runMoves_append hrun, runMoves_cons_next hentry, runMoves_nil, andThen_next, hcopy,
      andThen_next, runMoves_cons_next hexit, runMoves_nil]
  · change s.txProgress + (q.take ws.length).length = (n + 1) * s.params.blockItemsTx
    rw [h.sent, List.length_take_of_le hle, hlen, Nat.succ_mul]
  · rw [List.length_append, List.length_drop, Nat.sub_add_cancel hle, h.full]
    rfl
  · have hi' := hm.copied i (hblock.symm ▸ hi)
    rw [← ht.rxItems i hi, ← ht.params]
    exact hi'
  · have hj' := hm.others j (ht.params.symm ▸ hj) fun i hi => ht.params.symm ▸ hne i (hblock ▸ hi)
    rw [← ht.txItems j hj, ← ht.params]
    exact hj'

end

theorem CopyQueue.blocks_copied {blocks : List (List Item)} {n : Nat} {q : List Item} {s : State}
    (h : CopyQueue n q s) (hlen : ∀ ws ∈ blocks, ws.length = s.params.blockItemsRx) :
    ∃ t, runEach runCopyBlock blocks s = .next t ∧ t.rxTrace = s.rxTrace ++ blocks.flatten
      ∧ t.txTrace = s.txTrace ++ (q ++ blocks.flatten).take (blocks.length * s.params.blockItemsTx) := by
  induction blocks generalizing n q s with
  | nil => exact ⟨s, rfl, (List.append_nil _).symm, by simp⟩
  | cons ws blocks ih =>
    obtain ⟨hws, hrest⟩ := List.forall_mem_cons.1 hlen
    obtain ⟨m, c, c', hblock, hnext⟩ := h.block_copied hws
    obtain ⟨t, hrun, hrx, htx⟩ := ih hnext hrest
    refine ⟨t, (runEach_cons_next hblock).trans hrun, ?_, ?_⟩
    · rw [hrx, List.flatten_cons]
      exact List.append_assoc _ ws _
    · have hqueue : q ++ (ws :: blocks).flatten
          = q.take ws.length ++ (q.drop ws.length ++ ws ++ blocks.flatten) := by
        rw [List.flatten_cons, List.append_assoc, ← List.append_assoc (q.take _), List.take_append_drop]
      have hsent : (q.take ws.length).length = s.params.blockItemsTx := by
        rw [List.length_take_of_le (h.block_le hws), hws]
      rw [htx, hqueue, List.length_cons, Nat.succ_mul, Nat.add_comm, ← hsent, List.take_length_add_append, hsent]
      exact List.append_assoc _ (q.take ws.length) _

/-- Settles O53: at first the queue is the zeroed transmit memory. -/
theorem copyRunDelaysByTwoBlocks : Obligations.CopyRunDelaysByTwoBlocks := by
  intro s blocks h hlen hzero
  obtain ⟨-, htx, -⟩ := h.no_items
  refine CopyQueue.blocks_copied (n := 0) ⟨h.betweenBlocks, ?_, List.length_replicate, fun j hj => ?_⟩ hlen
  · rw [htx, Nat.zero_mul]
  · rw [List.length_replicate] at hj
    rw [List.getElem_replicate, Nat.zero_mul, Nat.zero_add, Nat.mod_eq_of_lt hj]
    exact hzero j hj

end Sys2Proof.Machine

/-! PROOFS. The dispatcher's entry and exit steps and the two error handlers, each with its whole effect
(R161 to R167, R171 to R173, R177, R181, R183). -/

namespace Sys2Proof.Machine

/-! ### One cause at a time

The flag ends clear, and what it stands for is recorded when it was set; a flag that was clear is what clearing it
writes. -/

section
variable (s : State)

theorem takeRxTe_eq : takeRxTe s = { s with
    rxFlags := { s.rxFlags with te := false }
    teCount := if s.rxFlags.te then satInc s.teCount else s.teCount } := by
  cases hset : s.rxFlags.te with
  | false =>
    simp only [takeRxTe, hset, Bool.false_eq_true, if_false]
    rw [← hset]
  | true => simp only [takeRxTe, hset, if_true]

theorem takeRxDme_eq : takeRxDme s = { s with
    rxFlags := { s.rxFlags with dme := false }
    dmeCount := if s.rxFlags.dme then satInc s.dmeCount else s.dmeCount } := by
  cases hset : s.rxFlags.dme with
  | false =>
    simp only [takeRxDme, hset, Bool.false_eq_true, if_false]
    rw [← hset]
  | true => simp only [takeRxDme, hset, if_true]

theorem takeRxTc_eq : takeRxTc s = { s with
    rxFlags := { s.rxFlags with tc := false }
    readyHalf := if s.rxFlags.tc then 1 else s.readyHalf
    dispBlock := s.rxFlags.tc || s.dispBlock } := by
  cases hset : s.rxFlags.tc with
  | false =>
    simp only [takeRxTc, hset, Bool.false_eq_true, if_false, Bool.false_or]
    rw [← hset]
  | true => simp only [takeRxTc, hset, if_true, Bool.true_or]

theorem takeRxHt_eq : takeRxHt s = { s with
    rxFlags := { s.rxFlags with ht := false }
    readyHalf := if s.rxFlags.ht then 0 else s.readyHalf
    dispBlock := s.rxFlags.ht || s.dispBlock } := by
  cases hset : s.rxFlags.ht with
  | false =>
    simp only [takeRxHt, hset, Bool.false_eq_true, if_false, Bool.false_or]
    rw [← hset]
  | true => simp only [takeRxHt, hset, if_true, Bool.true_or]

theorem takeTxTe_eq : takeTxTe s = { s with
    txFlags := { s.txFlags with te := false }
    teCount := if s.txFlags.te then satInc s.teCount else s.teCount } := by
  cases hset : s.txFlags.te with
  | false =>
    simp only [takeTxTe, hset, Bool.false_eq_true, if_false]
    rw [← hset]
  | true => simp only [takeTxTe, hset, if_true]

theorem takeTxDme_eq : takeTxDme s = { s with
    txFlags := { s.txFlags with dme := false }
    dmeCount := if s.txFlags.dme then satInc s.dmeCount else s.dmeCount } := by
  cases hset : s.txFlags.dme with
  | false =>
    simp only [takeTxDme, hset, Bool.false_eq_true, if_false]
    rw [← hset]
  | true => simp only [takeTxDme, hset, if_true]

/-- The half that DISP latches: half-transfer wins over full-transfer, and without either the old one stays (R163). -/
def entryHalf : Half := if s.rxFlags.ht then 0 else if s.rxFlags.tc then 1 else s.readyHalf

/-- DISP's entry up to the handoff, the four causes together (R161 to R164). -/
theorem dispHandoff_eq : dispHandoff s = { s with
    rxFlags := ⟨false, false, false, false⟩
    teCount := if s.rxFlags.te then satInc s.teCount else s.teCount
    dmeCount := if s.rxFlags.dme then satInc s.dmeCount else s.dmeCount
    readyHalf := entryHalf s
    dispHalf := entryHalf s
    dispBlock := s.rxFlags.ht || s.rxFlags.tc } := by
  simp only [dispHandoff, takeRxTe_eq, takeRxDme_eq, takeRxTc_eq, takeRxHt_eq, Bool.or_false]
  rfl

/-- TXH, both causes together (R177). -/
theorem txh_eq : txh s = { s with
    txFlags := ⟨false, false⟩
    teCount := if s.txFlags.te then satInc s.teCount else s.teCount
    dmeCount := if s.txFlags.dme then satInc s.dmeCount else s.dmeCount } := by
  rw [txh, takeTxTe_eq, takeTxDme_eq]

theorem recoveryStart_of_nil {p : Params} (h : p.cfeSeq = []) : recoveryStart p = .teardown := by
  simp only [recoveryStart, h, beginCodec]

/-- The recovery sequence begins with the first transaction of `CFE_SEQ` (R121, R184). -/
theorem recoveryStart_of_cons {p : Params} {e : Byte × Byte} {rest : List (Byte × Byte)} (h : p.cfeSeq = e :: rest) :
    recoveryStart p = .correct ⟨⟨.write p.codecAddr e.1 e.2, .start, .request, 0⟩, rest⟩ := by
  simp only [recoveryStart, h, beginCodec, beginTxn]

/-- The underrun test in items: more of them since the last sample than the double buffer holds (R172, R173). -/
theorem underrun_iff : deltaBytes s > s.params.dbufBytesRx ↔ s.rxProgress - s.lastProgress > s.params.nRx := by
  rw [deltaBytes, Params.dbufBytesRx, Nat.mul_comm]
  exact Nat.mul_lt_mul_right (by decide)

theorem noteUnderrun_eq : noteUnderrun s = { s with
    underrunFlag := s.underrunFlag || decide (s.rxProgress - s.lastProgress > s.params.nRx)
    underrunCount :=
      if s.rxProgress - s.lastProgress > s.params.nRx then satInc s.underrunCount else s.underrunCount } := by
  simp only [noteUnderrun, underrun_iff]
  by_cases hover : s.rxProgress - s.lastProgress > s.params.nRx
  · simp only [if_pos hover, decide_eq_true hover, Bool.or_true]
  · simp only [if_neg hover, decide_eq_false hover, Bool.or_false]

end

/-! ### The obligations -/

/-- Settles O46, by whether a block event was found: the callback is invoked, or DISP returns. -/
theorem dispatcherEntry : Obligations.DispatcherEntry := by
  rintro s block half hidle hirq hnormal rfl rfl
  rw [take_of_enabled ((enabled_dispEntry_iff s).2 ⟨hidle, hirq⟩), act]
  have hcases := dispEntry_cases s
  rw [dispHandoff_eq] at hcases
  rcases hcases with ⟨hpend, -⟩ | ⟨-, hblock, e⟩ | ⟨-, hblock, e⟩
  · exact absurd hpend hnormal
  · rw [e, show (s.rxFlags.ht || s.rxFlags.tc) = true from hblock]
    rfl
  · rw [e, show (s.rxFlags.ht || s.rxFlags.tc) = false from hblock]
    rfl

/-- Settles O47: after the handoff only the branch of a pending frame error is left, and the sequence begins by whether
`CFE_SEQ` is empty. -/
theorem pendingFrameErrorStartsRecovery : Obligations.PendingFrameErrorStartsRecovery := by
  rintro s half hidle hirq hpend rfl
  rw [take_of_enabled ((enabled_dispEntry_iff s).2 ⟨hidle, hirq⟩), act]
  have hcases := dispEntry_cases s
  rw [dispHandoff_eq] at hcases
  rcases hcases with ⟨-, e⟩ | ⟨hne, -⟩ | ⟨hne, -⟩
  · rw [e, beginRecovery]
    cases hseq : s.params.cfeSeq with
    | nil =>
      rw [recoveryStart_of_nil hseq]
      rfl
    | cons c rest =>
      rw [recoveryStart_of_cons hseq]
      rfl
  · exact absurd hpend hne
  · exact absurd hpend hne

/-- Settles O48: the exit step is the underrun test, then the sample of `rx_progress` and the return. -/
theorem dispatcherExit : Obligations.DispatcherExit := by
  intro s hcallback
  have hen : enabled .dispExit s = true := decide_eq_true hcallback
  rw [take_of_enabled hen, act, dispExit_eq, Function.comp_apply, noteUnderrun_eq]
  rfl

/-- Settles O50: each handler is enabled when its line is the first that requests, and its step is its whole effect. -/
theorem errorHandlers : Obligations.ErrorHandlers := by
  intro s hidle hrx
  constructor
  · intro htx
    rw [take_of_enabled ((enabled_txh_iff s).2 ⟨hidle, hrx, htx⟩), act, txh_eq]
  · intro htx hfe
    rw [take_of_enabled ((enabled_feh_iff s).2 ⟨hidle, hrx, htx, hfe⟩), act, feh]

end Sys2Proof.Machine

/-! PROOFS. The recovery sequence from DISP's entry to either of its ends: a willing environment brings the stream back,
and a PLL that never locks leaves the block faulted (R183 to R190, R192, R215). -/

namespace Sys2Proof.Machine

/-! ### What the invariant gives -/

/-- A supported rate has its row of `CLOCK_TABLE` (R7, R8). -/
theorem exists_rateClock (p : Params) {rate : BitVec 24} (h : (rateOf rate).isSome = true) :
    ∃ clk, RateClock p rate clk := by
  rcases (rateOf_isSome_iff rate).1 h with hrate | hrate | hrate
  · exact ⟨_, .inl ⟨hrate, rfl⟩⟩
  · exact ⟨_, .inr (.inl ⟨hrate, rfl⟩)⟩
  · exact ⟨_, .inr (.inr ⟨hrate, rfl⟩)⟩

/-- The engine is idle while the block runs and DISP does not recover (R110, R111). -/
theorem Inv.bus_idle_of_running {s : State} (h : Inv s) (hphase : s.dispPhase ≠ .recover)
    (hrun : s.runState = .running) : s.cbWait = none ∧ s.cbSr = 0 :=
  h.engineFits_none (h.fg_idle_of_running hrun).1 hphase

/-! ### DISP runs the procedures of the sequence -/

theorem continueRecovery_eq_mapProcs (k : RecoveryProc) :
    continueRecovery k = mapProcs id id (fun _ => some k) := rfl

section
variable {t : State} (k : RecoveryProc)

theorem take_disp_continueRecovery (hphase : t.dispPhase = .recover) :
    take .disp (continueRecovery k t) = .next (recoveryStepAt k (continueRecovery k t)) :=
  take_disp (s := continueRecovery k t) hphase rfl

theorem take_pllLock_continueRecovery (hlock : t.pllLocked = false) :
    take .pllLock (continueRecovery k t) = .next (continueRecovery k (pllLock t)) :=
  take_of_enabled ((enabled_pllLock_iff (continueRecovery k t)).2 hlock)

theorem take_cbAck_continueRecovery (b : Byte) (hen : cbAckEnabled t = true) :
    take (.cbAck b) (continueRecovery k t) = .next (continueRecovery k (cbAck b t)) := by
  obtain ⟨x, hx, -⟩ := (cbAckEnabled_iff t).1 hen
  rw [take_of_enabled (m := .cbAck b) (s := continueRecovery k t) hen, act, cbAck_of_wait b hx,
    cbAck_of_wait (s := continueRecovery k t) b hx]
  rfl

end

/-- DISP runs `correct_frame_error` in step (a) (R184, R190). -/
theorem disp_runs_correct : Runs .disp (·.dispPhase = .recover) codecStep settleCorrect where
  take_step c t hphase := by
    rw [settleCorrect, take_disp_continueRecovery _ hphase, recoveryStepAt, continueRecovery_eq_mapProcs,
      codecStep_mapProcs]
    cases codecStep c t <;> rfl
  take_pllLock c _ := take_pllLock_continueRecovery (.correct c)
  take_cbAck c _ := take_cbAck_continueRecovery (.correct c)

/-- DISP runs `do_setup` in step (c) (R186, R190). -/
theorem disp_runs_setup (rate : BitVec 24) :
    Runs .disp (·.dispPhase = .recover) (setupStep rate) (settleRecoverySetup rate) where
  take_step pos t hphase := by
    rw [settleRecoverySetup, take_disp_continueRecovery _ hphase, recoveryStepAt, continueRecovery_eq_mapProcs,
      setupStep_mapProcs]
    cases setupStep rate pos t <;> rfl
  take_pllLock pos _ := take_pllLock_continueRecovery (.setup rate pos)
  take_cbAck pos _ := take_cbAck_continueRecovery (.setup rate pos)

/-! ### Steps (a) and (b), and the reprogramming of the PLL -/

/-- `s` once DISP has found its causes and consumed the pending frame error (R161 to R164, R183). -/
def recoveryEntered (s : State) : State :=
  { s with
    rxFlags := ⟨false, false, false, false⟩
    teCount := if s.rxFlags.te then satInc s.teCount else s.teCount
    dmeCount := if s.rxFlags.dme then satInc s.dmeCount else s.dmeCount
    readyHalf := entryHalf s
    dispHalf := entryHalf s
    dispBlock := s.rxFlags.ht || s.rxFlags.tc
    recState := .recovering
    runState := .faulted
    dispPhase := .recover }

/-- `s` after step (a): `CFE_SEQ` is written to the codec (R121, R184). -/
def frameErrorCorrected (s : State) : State :=
  { recoveryEntered s with cbTrace := s.cbTrace ++ codecFrames s.params s.params.cfeSeq }

/-- `s` after step (b), with the PLL reprogrammed by the beginning of step (c): nothing streams and nothing is
unmasked (R102, R137, R185, R186). -/
def recoveryReset (s : State) (clk : ClockParams) : State :=
  { recoveryEntered s with
    cbTrace := s.cbTrace ++ codecFrames s.params s.params.cfeSeq
    rxLineEn := false
    txLineEn := false
    feLineEn := false
    txFlags := ⟨false, false⟩
    feStatus := false
    busEn := false
    extRxEn := false
    rxEn := false
    txEn := false
    clocksOn := false
    runState := if s.cfgValid then .configured else .uninitialized
    cbClkOn := false
    cfgClk := clk
    pllLocked := false }

theorem recoveryReset_eq (s : State) (clk : ClockParams) :
    recoveryReset s clk = { recoveryTeardown (frameErrorCorrected s) with cfgClk := clk, pllLocked := false } := rfl

/-- The sequence begins where `CFE_SEQ` does (R121, R184). -/
theorem beginRecovery_eq (t : State) :
    beginRecovery t = settleCorrect (codecFrom t.params t.params.cfeSeq
      { t with recState := .recovering, runState := .faulted, dispPhase := .recover }) := by
  rw [beginRecovery, recoveryStart, codecFrom]
  cases beginCodec t.params t.params.cfeSeq <;> rfl

/-- The teardown leaves no running block, whatever ran before it (R137, R185). -/
theorem recoveryTeardown_not_running (t : State) : (recoveryTeardown t).runState ≠ .running := by
  simp only [recoveryTeardown, doDisable_runState]
  split
  · nofun
  · nofun

/-- Step (c) begins, for the rate that is configured (R102, R106, R186). -/
theorem take_disp_setupBegin {t : State} {clk : ClockParams} (hphase : t.dispPhase = .recover)
    (hrun : t.runState ≠ .running) (hclk : RateClock t.params t.cfgRate clk) :
    take .disp (continueRecovery .setupBegin t)
      = .next (settleRecoverySetup t.cfgRate
          (.going (.pll t.params.pllSpinLimit) { t with cfgClk := clk, pllLocked := false })) := by
  rw [take_disp_continueRecovery _ hphase, recoveryStepAt, continueRecovery_cfgRate,
    setupBegin_supported (s := continueRecovery .setupBegin t) hclk hrun]
  rfl

section
variable {s : State} (hidle : s.dispPhase = .idle) (hirq : irqRx s = true) (hpend : s.recState = .frameErrorPending)
include hidle hirq hpend

theorem take_dispEntry_pending :
    take .dispEntry s = .next (settleCorrect (codecFrom s.params s.params.cfeSeq (recoveryEntered s))) := by
  have hpend' : (dispHandoff s).recState = .frameErrorPending := by
    rw [dispHandoff_eq]
    exact hpend
  rw [take_of_enabled ((enabled_dispEntry_iff s).2 ⟨hidle, hirq⟩), act, dispEntry, if_pos hpend', beginRecovery_eq,
    dispHandoff_eq]
  rfl

variable (hwait : s.cbWait = none) (hsr : s.cbSr = 0)
include hwait hsr

/-- From DISP's entry to the end of step (a), the codec acknowledging (R165, R183, R184). -/
theorem runMoves_frameErrorCorrected :
    runMoves (.dispEntry :: dispCodecAcked s.params.cfeSeq) s
      = .next (continueRecovery .teardown (frameErrorCorrected s)) := by
  have hbus := busAt_idle (s := recoveryEntered s) hwait hsr
  have hcodec := runMoves_codecAcked disp_runs_correct (s := recoveryEntered s) (tr := s.cbTrace)
    (fun _ _ _ => rfl) s.params.cfeSeq
  rw [hbus, hbus] at hcodec
  exact (runMoves_cons_next (take_dispEntry_pending hidle hirq hpend)).trans hcodec

/-- From DISP's entry to the first poll step for the PLL (R183 to R186). -/
theorem runMoves_recoveryReset {clk : ClockParams} (hclk : RateClock s.params s.cfgRate clk) :
    runMoves (.dispEntry :: dispCodecAcked s.params.cfeSeq ++ [.disp, .disp]) s
      = .next (settleRecoverySetup s.cfgRate (.going (.pll s.params.pllSpinLimit) (recoveryReset s clk))) := by
  have hteardown := take_disp_continueRecovery (t := frameErrorCorrected s) .teardown rfl
  have hbegin := take_disp_setupBegin (t := recoveryTeardown (frameErrorCorrected s)) rfl
    (recoveryTeardown_not_running _) hclk
  rw [runMoves_append (runMoves_frameErrorCorrected hidle hirq hpend hwait hsr), recoveryReset_eq]
  exact (runMoves_cons_next hteardown).trans (runMoves_cons_next hbegin)

end

/-! ### Steps (c) and (d), and the ends of the sequence -/

/-- The end of a recovery that succeeded, with the callback that is owed, if any (R187, R188). -/
theorem recoverySucceed_eq (s : State) : recoverySucceed s = { s with
    recState := .normal
    recoveryCount := satInc s.recoveryCount
    callbackCount := if s.dispBlock then satInc s.callbackCount else s.callbackCount
    callTrace := if s.dispBlock then s.callTrace ++ [s.dispHalf] else s.callTrace
    dispPhase := if s.dispBlock then .callback else .idle
    dispProc := none } := by
  cases hblock : s.dispBlock with
  | true => simp only [recoverySucceed, hblock, if_true, invokeCallback]
  | false => simp only [recoverySucceed, hblock, Bool.false_eq_true, if_false, handlerReturn]

/-! What follows holds in any state that DISP recovers in, whatever steps (a) and (b) wrote before it. -/

section
variable {s : State} (hphase : s.dispPhase = .recover)
include hphase

/-- Step (d), the word-select line changing before its first poll step (R134, R187). -/
theorem runMoves_recoveryStart (hconf : s.runState = .configured) :
    runMoves [.disp, .wsToggle, .disp] (continueRecovery .startBegin s)
      = .next (recoverySucceed (openStream (wsToggle (armStream s)))) := by
  have hchanged : (wsToggle (armStream s)).wsLine ≠ s.wsLine := by simp [wsToggle]
  have hbegin := take_disp_continueRecovery .startBegin hphase
  rw [recoveryStepAt, startBegin_configured (s := continueRecovery .startBegin s) hconf] at hbegin
  have hopen := take_disp_continueRecovery (t := wsToggle (armStream s)) (.startWait s.wsLine s.params.spinLimit) hphase
  rw [recoveryStepAt, startStep_transition (s := continueRecovery _ (wsToggle (armStream s))) hchanged] at hopen
  refine (runMoves_cons_next hbegin).trans ((runMoves_cons_next rfl).trans ((runMoves_cons_next hopen).trans ?_))
  rw [runMoves_nil, settleRecoveryStart, recoverySucceed_eq, recoverySucceed_eq]
  rfl

variable {rate : BitVec 24} (hlock : s.pllLocked = false)
include hlock

/-- A PLL that never locks: as many poll steps as the bound allows, then the failure path (R103, R186, R189). -/
theorem runMoves_recoveryPllTimeout {left : Nat} (hleft : 1 ≤ left) :
    runMoves (List.replicate left .disp ++ [.disp]) (settleRecoverySetup rate (.going (.pll left) s))
      = .next (recoveryFail .pllLockTimeout (invalidateConfig s)) := by
  have hfail := take_disp_continueRecovery (t := invalidateConfig s) (.fail .pllLockTimeout) hphase
  rw [runMoves_append (runMoves_pllTimeout (disp_runs_setup rate) hphase hlock hleft)]
  exact runMoves_cons_next hfail

/-- Steps (c) and (d) in a willing environment, the buffers being written already (R133, R186, R187). -/
theorem runMoves_recoveryRestart (hwait : s.cbWait = none) (hsr : s.cbSr = 0) (hinit : s.bufsInit = true)
    (left : Nat) :
    runMoves ([.pllLock, .disp] ++ (.disp :: codecAcked .disp s.params.cstartSeq) ++ [.disp, .disp]
        ++ [.disp, .wsToggle, .disp]) (settleRecoverySetup rate (.going (.pll left) s))
      = .next (recoverySucceed (openStream (wsToggle (armStream (setupWrites rate (codecStarted (pllLock s))))))) := by
  have hsetup := runMoves_setup (disp_runs_setup rate) (fun _ ⟨ephase, _⟩ => ephase.trans hphase) hlock hwait hsr left
  rw [if_neg (by rw [hinit]; decide)] at hsetup
  rw [runMoves_append hsetup]
  exact runMoves_recoveryStart (by rw [setupWrites_eq]; exact hphase) (by rw [setupWrites_eq])

end

/-! ### The obligations -/

/-- Settles O57: the poll steps for the PLL are used up, and the failure path is the step that follows. -/
theorem recoveryPllLockTimeout : Obligations.RecoveryPllLockTimeout := by
  intro s h hidle hirq hpend
  have hvalid := (h.runState.running_enables (h.running_of_irqRx hidle hirq)).1
  obtain ⟨hwait, hsr⟩ := h.bus_idle_of_running (by simp [hidle]) (h.running_of_irqRx hidle hirq)
  obtain ⟨-, hrate, -⟩ := h.runState.valid_config hvalid
  obtain ⟨clk, hclk⟩ := exists_rateClock s.params hrate
  obtain ⟨-, -, -, -, -, -, -, hlimit⟩ := h.params_valid
  have hfails := runMoves_recoveryPllTimeout (s := recoveryReset s clk) (rate := s.cfgRate) rfl rfl hlimit
  rw [List.append_assoc, runMoves_append (runMoves_recoveryReset hidle hirq hpend hwait hsr hclk)]
  refine ⟨_, hfails, ?_⟩
  simp [recoveryFail, recoveryReset, recoveryEntered]

/-- The willing environment of a recovery, cut where the sequence goes on to its next part. -/
theorem willingRecovery_eq (p : Params) :
    .dispEntry :: willingRecovery p = .dispEntry :: dispCodecAcked p.cfeSeq ++ [.disp, .disp]
      ++ ([.pllLock, .disp] ++ (.disp :: codecAcked .disp p.cstartSeq) ++ [.disp, .disp]
        ++ [.disp, .wsToggle, .disp]) := by
  simp [willingRecovery, dispCodecAcked, dispAcked, codecAcked]

/-- Settles O56: steps (a) and (b), then `do_setup` without the zeroing, then step (d); what the sequence does not write
is what a running block holds. -/
theorem frameErrorRecovers : Obligations.FrameErrorRecovers := by
  rintro s half block clk h hidle hirq hpend rfl rfl hclk
  have hrun := h.running_of_irqRx hidle hirq
  obtain ⟨hwait, hsr⟩ := h.bus_idle_of_running (by simp [hidle]) hrun
  obtain ⟨hvalid, hclocks, hext, hrxline, htxline, hfeline⟩ := h.runState.running_enables hrun
  obtain ⟨hinit, -, hrxirq, htxirq⟩ := h.runState.valid_config hvalid
  obtain ⟨hrxen, htxen, hbus⟩ := h.stream.one_switch
  have hproc := h.dispProc_eq_none (by simp [hidle])
  have hrestart := runMoves_recoveryRestart (s := recoveryReset s clk) (rate := s.cfgRate) rfl rfl hwait hsr hinit
    s.params.pllSpinLimit
  rw [willingRecovery_eq, runMoves_append (runMoves_recoveryReset hidle hirq hpend hwait hsr hclk)]
  refine hrestart.trans ?_
  rw [setupWrites_eq, setupWrites_mem _ (s := codecStarted (pllLock (recoveryReset s clk))) hinit, recoverySucceed_eq]
  simp only [openStream, wsToggle, armStream, codecStarted, pllLock, recoveryReset, recoveryEntered, entryHalf,
    hvalid, hclocks, hext, hrxline, htxline, hfeline, hinit, hrxirq, htxirq, hrxen, htxen, hbus, hproc]

end Sys2Proof.Machine

/-! PROOFS. The three host queries: the value each answers, and the one flag that CLEAR_UNDERRUN consumes
(R201 to R205). -/

namespace Sys2Proof.Machine

/-! ### GET_PROPERTY -/

/-- With a Stream Configuration GET_PROPERTY answers the selected word and changes nothing but the response (R201). -/
theorem exec_getProperty_of_valid {s : State} (hvalid : s.cfgValid = true) (sel : BitVec 2) :
    exec (.getProperty sel) s = .next (succeed (propertyWord s (PropertyName.ofSelector sel)) s) := by
  have harm : exec (.getProperty sel) s = execGetProperty sel s := rfl
  rw [harm, execGetProperty, if_pos hvalid]

theorem property_selector_cases : ∀ sel : BitVec 2, sel = 0 ∨ sel = 1 ∨ sel = 2 ∨ sel = 3 := by decide

/-- The table of R202; both channel counts are 2. -/
theorem propertyWord_ofSelector (s : State) (sel : BitVec 2) :
    propertyWord s (PropertyName.ofSelector sel)
      = if sel = 0 then s.cfgRate.setWidth 32 else if sel = 1 then BitVec.ofNat 32 s.params.blockFrames else 2 := by
  rcases property_selector_cases sel with rfl | rfl | rfl | rfl <;> rfl

/-- Settles O27: the selected word is the table's entry. -/
theorem getPropertyValues : Obligations.GetPropertyValues := by
  intro s sel hvalid
  rw [exec_getProperty_of_valid hvalid, propertyWord_ofSelector]
  rfl

/-! ### GET_STATUS -/

/-- GET_STATUS by the name of the status word its selector stands for (R203, R204). -/
theorem exec_getStatus_of_word (n : StatusName) {sel : BitVec 4} {s : State} {d : Word32}
    (hsel : StatusName.ofSelector sel = n) (hword : statusWord s n = d) :
    exec (.getStatus sel) s = .next (succeed d s) := by
  rw [exec_getStatus, hsel, hword]

/-- The one bit of selector 11 (R204). -/
theorem statusWord_readyHalf (s : State) : statusWord s .readyHalf = if s.readyHalf = 1 then 1 else 0 := by
  have hcode : ∀ h : Half, BitVec.ofNat 32 h.val = if h = 1 then 1 else 0 := by decide
  exact hcode s.readyHalf

/-- Settles O28, selector by selector: a count is answered as it stands, an enumeration by its code. -/
theorem getStatusNumbers : Obligations.GetStatusNumbers := by
  intro s
  simp only [List.forall_mem_cons]
  refine ⟨exec_getStatus_of_word .runState rfl ?runState, exec_getStatus_of_word .recState rfl ?recState,
    exec_getStatus_of_word .underrunCount rfl rfl, exec_getStatus_of_word .teCount rfl rfl,
    exec_getStatus_of_word .dmeCount rfl rfl, exec_getStatus_of_word .recoveryCount rfl rfl,
    exec_getStatus_of_word .callbackCount rfl rfl, exec_getStatus_of_word .lastError rfl ?lastError,
    exec_getStatus_of_word .rxNdtr rfl rfl, exec_getStatus_of_word .txNdtr rfl rfl,
    exec_getStatus_of_word .readyHalf rfl (statusWord_readyHalf s),
    exec_getStatus_of_word .recoveryFailCount rfl rfl, List.forall_mem_nil _⟩
  case runState =>
    rw [statusWord]
    cases s.runState <;> rfl
  case recState =>
    rw [statusWord]
    cases s.recState <;> rfl
  case lastError =>
    rw [statusWord]
    cases s.lastError <;> rfl

/-! ### CLEAR_UNDERRUN -/

theorem packBits_singleton (b : Bool) : packBits [b] = if b then 1 else 0 := by
  cases b <;> rfl

/-- The answer is the flag before the step, and the step clears it (R205). -/
theorem exec_clearUnderrun (s : State) :
    exec .clearUnderrun s
      = .next (succeed (if s.underrunFlag then 1 else 0) { s with underrunFlag := false }) := by
  rw [← packBits_singleton]
  rfl

/-- Settles O31: the second step finds the flag that the first one cleared. -/
theorem clearUnderrunReadsAndClears : Obligations.ClearUnderrunReadsAndClears := by
  intro s
  exact ⟨_, exec_clearUnderrun s, rfl, exec_clearUnderrun _⟩

end Sys2Proof.Machine

/-! PROOFS. Weak fairness (R231): while a host operation or a DISP invocation is in progress one agent has the processor
to itself, and each of its steps brings the end nearer. -/

namespace Sys2Proof.Machine

/-! ### What goes on beside the processor -/

/-- The moves of the channels, the callback and the environment leave every continuation alone (R14, R56). -/
theorem act_frame_of_isDataMove {m : Move} {s t : State} (hm : isDataMove m = true) (h : act m s = .next t) :
    ProcFrame s t := by
  cases m with
  | cbRead i =>
    obtain ⟨w, -, e⟩ | ⟨f, -, e⟩ := cbReadStep_cases i s <;> cases e.symm.trans h
    exact .refl s
  | cbWrite i w =>
    obtain ⟨-, e⟩ | ⟨-, e⟩ := cbWriteStep_cases i w s <;> cases e.symm.trans h
    exact { ProcFrame.refl s with }
  | dmaRx w =>
    obtain ⟨-, e⟩ | ⟨-, e⟩ := dmaRxItem_cases w s <;> cases e.symm.trans h
    exact { ProcFrame.refl s with }
  | dmaTx =>
    obtain ⟨w, -, e⟩ | ⟨f, -, e⟩ := dmaTxItem_cases s <;> cases e.symm.trans h
    exact { ProcFrame.refl s with }
  | cbAck b =>
    cases h
    unfold cbAck
    split <;> exact { ProcFrame.refl s with }
  | dmaError ch kind =>
    cases h
    cases ch <;> cases kind <;> exact { ProcFrame.refl s with }
  | pllLock | wsToggle | frameError =>
    cases h
    exact { ProcFrame.refl s with }
  | command | fg | dispEntry | disp | dispExit | txh | feh => cases hm

/-- Agent step `a` is enabled, and no other step of the processor is (R222, R228, R229). -/
def HoldsProcessor (a : FairStep) (s : State) : Prop :=
  a.canStep s = true ∧ ∀ m, enabled m s = true → a.isStep m = true ∨ isDataMove m = true

/-- The foreground holds it for the whole of an operation, with every line masked (R229 (d)). -/
theorem Inv.fg_holdsProcessor {s : State} (h : Inv s) (hbusy : s.fgBusy = true) : HoldsProcessor .fg s := by
  obtain ⟨hfg, hnone⟩ := h.fg_uninterrupted hbusy
  obtain ⟨hidle, -⟩ := h.foreground.busy_alone hbusy
  refine ⟨hfg, fun m hen => ?_⟩
  cases m with
  | fg => exact .inl rfl
  | command w => simp [enabled, acceptsCommand, hbusy] at hen
  | disp | dispExit => simp [enabled, hidle] at hen
  | dispEntry | txh | feh => simp [enabled, hnone] at hen
  | cbRead | cbWrite | dmaRx | dmaTx | pllLock | cbAck | wsToggle | frameError | dmaError => exact .inr rfl

/-- A handler is active: the foreground waits and no handler starts (R55, R222). -/
theorem enabled_of_active {m : Move} {s : State} (hphase : s.dispPhase ≠ .idle) (hen : enabled m s = true) :
    (m = .disp ∧ s.dispPhase = .recover) ∨ (m = .dispExit ∧ s.dispPhase = .callback) ∨ isDataMove m = true := by
  have hmay : fgMayStep s = false := by simp [fgMayStep, hphase]
  have hnone : handlerToStart s = none := by simp [handlerToStart, hphase]
  cases m with
  | disp => exact .inl ⟨rfl, of_decide_eq_true hen⟩
  | dispExit => exact .inr (.inl ⟨rfl, of_decide_eq_true hen⟩)
  | command w => simp [enabled, acceptsCommand, hmay] at hen
  | fg => simp [enabled, hmay] at hen
  | dispEntry | txh | feh => simp [enabled, hnone] at hen
  | cbRead | cbWrite | dmaRx | dmaTx | pllLock | cbAck | wsToggle | frameError | dmaError => exact .inr (.inr rfl)

theorem disp_holdsProcessor {s : State} (hphase : s.dispPhase = .recover) : HoldsProcessor .disp s := by
  refine ⟨decide_eq_true hphase, fun m hen => ?_⟩
  obtain ⟨rfl, -⟩ | ⟨-, hcall⟩ | hdata := enabled_of_active (by simp [hphase]) hen
  · exact .inl rfl
  · simp [hphase] at hcall
  · exact .inr hdata

theorem dispExit_holdsProcessor {s : State} (hphase : s.dispPhase = .callback) : HoldsProcessor .dispExit s := by
  refine ⟨decide_eq_true hphase, fun m hen => ?_⟩
  obtain ⟨-, hrec⟩ | ⟨rfl, -⟩ | hdata := enabled_of_active (by simp [hphase]) hen
  · simp [hphase] at hrec
  · exact .inl rfl
  · exact .inr hdata

/-! ### Weak fairness brings the end -/

/-- `Within w` says of a state that at most `w` steps of agent step `a` remain, and `Within 0` that none does: until then
`a` holds the processor, the steps beside the processor keep the bound, and each step of `a` lowers it. -/
structure EndsBy (a : FairStep) (Within : Nat → State → Prop) : Prop where
  holds : ∀ w s, Inv s → Within w s → ¬Within 0 s → HoldsProcessor a s
  beside : ∀ w s t, ProcFrame s t → Within w s → Within w t
  own : ∀ w s t m, Inv s → Within (w + 1) s → ¬Within 0 s → a.isStep m = true → take m s = .next t → Within w t

theorem IsRun.inv {σ : Nat → Move} {r : Nat → State} (hrun : IsRun σ r) (h0 : Inv (r 0)) (n : Nat) : Inv (r n) := by
  induction n with
  | zero => exact h0
  | succ n ih => exact take_inv ih (hrun n)

section
variable {a : FairStep} {Within : Nat → State → Prop}

/-- Any step before the end keeps the bound, or it is `a`'s. -/
theorem EndsBy.take_keeps (h : EndsBy a Within) {w : Nat} {s t : State} {m : Move} (hinv : Inv s) (hw : Within w s)
    (hgoing : ¬Within 0 s) (ht : take m s = .next t) : a.isStep m = true ∨ Within w t := by
  obtain ⟨hen, e⟩ | ⟨-, e⟩ := take_cases m s <;> rw [e] at ht
  · obtain ⟨-, honly⟩ := h.holds w s hinv hw hgoing
    exact (honly m hen).imp_right fun hdata => h.beside w s t (act_frame_of_isDataMove hdata ht) hw
  · cases ht
    exact .inr hw

/-- Under weak fairness the bound falls to nothing, by induction on it: while it stands, `a` stays enabled. -/
theorem EndsBy.ends (h : EndsBy a Within) {σ : Nat → Move} {r : Nat → State} (hrun : IsRun σ r)
    (hfair : WeaklyFair σ r) (hinv : ∀ n, Inv (r n)) (w : Nat) :
    ∀ n, Within w (r n) → ∃ m, n ≤ m ∧ Within 0 (r m) := by
  induction w with
  | zero => exact fun n hn => ⟨n, le_rfl, hn⟩
  | succ w ih =>
    intro n hn
    by_contra hnever
    have hgoing : ∀ m, n ≤ m → ¬Within 0 (r m) := fun m hm hend => hnever ⟨m, hm, hend⟩
    have habove : ∀ m, n ≤ m → ¬Within w (r m) := fun m hm hlow =>
      let ⟨k, hk, hend⟩ := ih m hlow
      hgoing k (hm.trans hk) hend
    have hlow : ∀ m, n ≤ m → Within (w + 1) (r m) → a.isStep (σ m) ≠ true := fun m hm hbound hstep =>
      habove (m + 1) (Nat.le_succ_of_le hm) (h.own w _ _ _ (hinv m) hbound (hgoing m hm) hstep (hrun m))
    have hstays : ∀ m, n ≤ m → Within (w + 1) (r m) := by
      intro m hm
      induction m, hm using Nat.le_induction with
      | base => exact hn
      | succ m hm hbound =>
        exact (h.take_keeps (hinv m) hbound (hgoing m hm) (hrun m)).resolve_left (hlow m hm hbound)
    obtain ⟨m, hm, hstep⟩ :=
      hfair a n fun m hm => (h.holds _ _ (hinv m) (hstays m hm) (hgoing m hm)).1
    exact hlow m hm (hstays m hm) hstep

end

/-! ### Host operations complete -/

theorem FgProgress.mono {v w : Nat} {s : State} (hle : v ≤ w) : FgProgress v s → FgProgress w s :=
  Or.imp_right fun ⟨hbusy, k, hk, hlt⟩ => ⟨hbusy, k, hk, hlt.trans_le hle⟩

/-- Where FG's operation has not ended it is at some continuation, with the work of that. -/
theorem FgProgress.going {w : Nat} {s : State} (h : FgProgress w s) (hgoing : ¬FgProgress 0 s) :
    s.fgBusy = true ∧ ∃ k, s.fgProc = some k ∧ fgWork s.params k < w :=
  h.resolve_left fun hend => hgoing (.inl hend)

theorem FgProgress.not_busy {s : State} (h : FgProgress 0 s) : s.fgBusy = false := by
  obtain ⟨hbusy, -⟩ | ⟨-, k, -, hlt⟩ := h
  · exact hbusy
  · exact absurd hlt (Nat.not_lt_zero _)

theorem Inv.fgProgress {s : State} (h : Inv s) : ∃ w, FgProgress w s := by
  cases hbusy : s.fgBusy with
  | false => exact ⟨0, .inl ⟨hbusy, h.fgProc_eq_none hbusy⟩⟩
  | true =>
    obtain ⟨k, hk⟩ := Option.isSome_iff_exists.1 (h.foreground.busy_iff ▸ hbusy)
    exact ⟨_, .inr ⟨hbusy, k, hk, Nat.lt_succ_self _⟩⟩

theorem fg_endsBy : EndsBy .fg FgProgress where
  holds w s hinv hw hgoing := hinv.fg_holdsProcessor (hw.going hgoing).1
  beside w s t hkeep hw := by
    unfold FgProgress
    rwa [hkeep.fgBusy, hkeep.fgProc, hkeep.params]
  own w s t m hinv hw hgoing hstep ht := by
    obtain ⟨hbusy, k, hk, hlt⟩ := hw.going hgoing
    obtain ⟨hen, -⟩ := hinv.fg_uninterrupted hbusy
    cases m with
    | fg =>
      cases (take_fg hbusy hk (Bool.and_eq_true_iff.1 hen).2).symm.trans ht
      exact (fgStepAt_progress k s).mono (Nat.le_of_lt_succ hlt)
    | _ => cases hstep

/-! ### DISP returns -/

theorem RecoveryProgress.mono {v w : Nat} {s : State} (hle : v ≤ w) : RecoveryProgress v s → RecoveryProgress w s :=
  Or.imp_right fun ⟨hphase, k, hk, hlt⟩ => ⟨hphase, k, hk, hlt.trans_le hle⟩

theorem RecoveryProgress.going {w : Nat} {s : State} (h : RecoveryProgress w s) (hgoing : ¬RecoveryProgress 0 s) :
    s.dispPhase = .recover ∧ ∃ k, s.dispProc = some k ∧ recoveryWork s.params k < w :=
  h.resolve_left fun hend => hgoing (.inl hend)

theorem RecoveryProgress.phase_ne {s : State} (h : RecoveryProgress 0 s) : s.dispPhase ≠ .recover := by
  obtain ⟨hphase, -⟩ | ⟨-, k, -, hlt⟩ := h
  · exact hphase
  · exact absurd hlt (Nat.not_lt_zero _)

theorem Inv.recoveryProgress {s : State} (h : Inv s) : ∃ w, RecoveryProgress w s := by
  by_cases hphase : s.dispPhase = .recover
  · obtain ⟨k, hk⟩ := Option.isSome_iff_exists.1 (h.dispatcher.proc_iff.2 hphase)
    exact ⟨_, .inr ⟨hphase, k, hk, Nat.lt_succ_self _⟩⟩
  · exact ⟨0, .inl ⟨hphase, h.dispProc_eq_none hphase⟩⟩

theorem recovery_endsBy : EndsBy .disp RecoveryProgress where
  holds w s _ hw hgoing := disp_holdsProcessor (hw.going hgoing).1
  beside w s t hkeep hw := by
    unfold RecoveryProgress
    rwa [hkeep.dispPhase, hkeep.dispProc, hkeep.params]
  own w s t m _ hw hgoing hstep ht := by
    obtain ⟨hphase, k, hk, hlt⟩ := hw.going hgoing
    cases m with
    | disp =>
      cases (take_disp hphase hk).symm.trans ht
      exact (recoveryStepAt_progress k hphase).mono (Nat.le_of_lt_succ hlt)
    | _ => cases hstep

/-- DISP has returned, or it is in the callback and its one exit step is to come (R172). -/
def CallbackProgress (w : Nat) (s : State) : Prop := s.dispPhase = .idle ∨ (s.dispPhase = .callback ∧ 0 < w)

theorem CallbackProgress.going {w : Nat} {s : State} (h : CallbackProgress w s) (hgoing : ¬CallbackProgress 0 s) :
    s.dispPhase = .callback :=
  (h.resolve_left fun hend => hgoing (.inl hend)).1

theorem CallbackProgress.idle {s : State} (h : CallbackProgress 0 s) : s.dispPhase = .idle :=
  h.resolve_right fun ⟨_, hlt⟩ => Nat.lt_irrefl 0 hlt

theorem callbackProgress_of_phase_ne {s : State} (h : s.dispPhase ≠ .recover) : CallbackProgress 1 s := by
  cases hphase : s.dispPhase with
  | idle => exact .inl hphase
  | callback => exact .inr ⟨hphase, Nat.one_pos⟩
  | recover => exact absurd hphase h

theorem callback_endsBy : EndsBy .dispExit CallbackProgress where
  holds w s _ hw hgoing := dispExit_holdsProcessor (hw.going hgoing)
  beside w s t hkeep hw := by
    unfold CallbackProgress
    rwa [hkeep.dispPhase]
  own w s t m _ hw hgoing hstep ht := by
    have hen : enabled .dispExit s = true := decide_eq_true (hw.going hgoing)
    cases m with
    | dispExit =>
      cases (take_of_enabled hen).symm.trans ht
      exact .inl rfl
    | _ => cases hstep

/-- Settles O60: FG's operation by its work; DISP by the work of the recovery sequence, and then the callback's exit. -/
theorem fairRunsComplete : Obligations.FairRunsComplete := by
  intro σ r hrun hfair h0 n
  have hinv := hrun.inv h0
  constructor
  · obtain ⟨w, hw⟩ := (hinv n).fgProgress
    obtain ⟨m, hm, hend⟩ := fg_endsBy.ends hrun hfair hinv w n hw
    exact ⟨m, hm, hend.not_busy⟩
  · obtain ⟨w, hw⟩ := (hinv n).recoveryProgress
    obtain ⟨m, hm, hleft⟩ := recovery_endsBy.ends hrun hfair hinv w n hw
    obtain ⟨k, hk, hend⟩ :=
      callback_endsBy.ends hrun hfair hinv 1 m (callbackProgress_of_phase_ne hleft.phase_ne)
    exact ⟨k, hm.trans hk, hend.idle⟩

end Sys2Proof.Machine

/-! PROOFS. Which host operations raise `InvalidState`, and which never do (R216, R218). -/

namespace Sys2Proof.Machine

section
variable {s : State}

/-- SETUP of a supported rate is refused while the stream runs: the rate check is the earlier one (R218). -/
theorem exec_setup_of_running {rate : BitVec 24} (hrate : ¬Unsupported rate) (hrun : s.runState = .running) :
    exec (.setup rate) s = .next (raiseError .invalidState s) := by
  rw [exec_setup]
  obtain ⟨hnone, -⟩ | ⟨-, -, e⟩ | ⟨r, -, hne, -⟩ := setupBegin_cases rate s
  · exact absurd ((rateOf_eq_none_iff rate).1 hnone) hrate
  · rw [e]
    rfl
  · exact absurd hrun hne

theorem exec_start_of_not_configured (hconf : s.runState ≠ .configured) :
    exec .start s = .next (raiseError .invalidState s) := by
  rw [exec_start]
  obtain ⟨hc, -⟩ | ⟨-, e⟩ := startBegin_cases s
  · exact absurd hc hconf
  · rw [e]
    rfl

/-- A register operation is refused without the control-bus clock and while the stream runs (R120). -/
theorem exec_registerOp_refused (t : Txn) (h : s.cbClkOn = false ∨ s.runState = .running) :
    exec t.instr s = .next (raiseError .invalidState s) := by
  have hadm : ¬registerOpAdmitted s = true := by
    obtain hclk | hrun := h
    · simp [registerOpAdmitted, hclk]
    · simp [registerOpAdmitted, hrun]
  rw [exec_txnInstr, beginRegisterOp, if_neg hadm]

theorem exec_getProperty_of_invalid (hvalid : s.cfgValid = false) (sel : BitVec 2) :
    exec (.getProperty sel) s = .next (raiseError .invalidState s) := by
  have harm : exec (.getProperty sel) s = execGetProperty sel s := rfl
  rw [harm, execGetProperty, if_neg (Bool.not_eq_true _ ▸ hvalid)]

end

/-- Settles O26, row by row of the table; the three other operations answer with `succeed`. -/
theorem invalidStateRaised : Obligations.InvalidStateRaised := by
  intro s i
  constructor
  · rintro (⟨⟨rate, rfl, hrate⟩, hrun⟩ | ⟨rfl, hconf⟩ | ⟨⟨dev, reg, val, rfl⟩ | ⟨dev, reg, rfl⟩, hbus⟩
      | ⟨⟨sel, rfl⟩, hvalid⟩)
    · exact exec_setup_of_running hrate hrun
    · exact exec_start_of_not_configured hconf
    · exact exec_registerOp_refused (.write dev reg val) hbus
    · exact exec_registerOp_refused (.read dev reg) hbus
    · exact exec_getProperty_of_invalid hvalid sel
  · rintro (rfl | ⟨sel, rfl⟩ | rfl)
    · exact ⟨_, exec_disable s, rfl⟩
    · exact ⟨_, exec_getStatus sel s, rfl⟩
    · exact ⟨_, exec_clearUnderrun s, rfl⟩

end Sys2Proof.Machine

/-! PROOFS. The reset values and the agents reset enables (R240, R241, R243); the Stream Configuration stands still
while the block runs (R30, R58, R131, R260). -/

namespace Sys2Proof.Machine

/-! ### After reset -/

/-- The machine's own reset is the reset of one choice of parameters (R240; entry 4). -/
theorem exists_eq_resetWith {p : Params} {s : State} (h : s = State.resetWith p ∨ s = State.reset) :
    ∃ q, s = State.resetWith q :=
  h.elim (⟨p, ·⟩) (⟨Config.params, ·⟩)

/-- Settles O32, group by group of R241: none of the listed elements depends on the parameters. -/
theorem resetValues : Obligations.ResetValues := by
  intro p s hs
  obtain ⟨q, rfl⟩ := exists_eq_resetWith hs
  refine ⟨?modes, ?flags, ?enables, ?counters, ?dma, ?agents, ?response, ?traces⟩
  case modes => exact ⟨rfl, rfl, rfl, rfl⟩
  case flags => exact ⟨rfl, rfl, rfl, rfl, rfl⟩
  case enables => exact ⟨rfl, rfl, rfl, rfl, rfl, rfl, rfl, rfl, rfl, rfl, rfl, rfl⟩
  case counters => exact ⟨rfl, rfl, rfl, rfl, rfl, rfl, rfl⟩
  case dma => exact ⟨rfl, rfl, rfl, rfl, rfl⟩
  case agents => exact ⟨rfl, rfl, rfl, rfl, rfl, rfl⟩
  case response => exact ⟨rfl, rfl⟩
  case traces => exact ⟨rfl, rfl, rfl, rfl⟩

/-- Reset leaves the block as DISABLE does: clocks off, lines masked, nobody inside a procedure (R137, R241). -/
theorem reset_halted (p : Params) : Halted (State.resetWith p) := ⟨rfl, rfl, rfl, rfl, rfl, rfl, rfl⟩

section
variable {s : State} (h : Halted s)
include h

theorem Halted.acceptsCommand : acceptsCommand s = true := by
  rw [Machine.acceptsCommand, h.not_busy, fgMayStep_of_masked h.idle ⟨h.rx_masked, h.tx_masked, h.fe_masked⟩]
  rfl

/-- On a halted block whose control bus is idle too, FG may be given a command, the PLL may lock and the word-select
line may change: the steps of every other agent need what is off. -/
theorem Halted.move_of_enabled (hwait : s.cbWait = none) {m : Move} (hen : enabled m s = true) :
    (∃ w, m = .command w) ∨ m = .pllLock ∨ m = .wsToggle := by
  cases m with
  | command w => exact .inl ⟨w, rfl⟩
  | pllLock => exact .inr (.inl rfl)
  | wsToggle => exact .inr (.inr rfl)
  | cbAck b =>
    obtain ⟨x, hx, -⟩ := (cbAckEnabled_iff s).1 hen
    exact absurd (hwait.symm.trans hx) nofun
  | fg => simp [enabled, h.not_busy] at hen
  | dispEntry | txh | feh => simp [enabled, h.handlerToStart_eq_none] at hen
  | disp | dispExit | cbRead | cbWrite => simp [enabled, h.idle] at hen
  | dmaRx | dmaTx => simp [enabled, h.dmaRx_off, h.dmaTx_off] at hen
  | frameError => simp [enabled, frameErrorEnabled, h.ext_off] at hen
  | dmaError ch kind => cases ch <;> simp [enabled, dmaErrorEnabled, h.clocks_off] at hen

end

/-- Settles O34: reset leaves a halted block, its bus idle and its PLL unlocked. -/
theorem resetEnablesOnlyForegroundAndEnvironment : Obligations.ResetEnablesOnlyForegroundAndEnvironment := by
  intro p m
  constructor
  · exact (reset_halted p).move_of_enabled rfl
  · rintro (⟨w, rfl⟩ | rfl | rfl)
    · exact (reset_halted p).acceptsCommand
    · exact (enabled_pllLock_iff _).2 rfl
    · rfl

/-! ### The configuration -/

/-- The parameters, the Stream Configuration and the channel configurations (R8, R30, R31, R33, R41). -/
structure StreamConfiguration where
  params : Params
  cfgValid : Bool
  cfgRate : BitVec 24
  cfgClk : ClockParams
  rxCfg : ChannelConfig
  txCfg : ChannelConfig
  rxIrqEn : RxCauses
  txIrqEn : TxCauses
  bufsInit : Bool

/-- The configuration a state holds. -/
def State.configuration (s : State) : StreamConfiguration where
  params := s.params
  cfgValid := s.cfgValid
  cfgRate := s.cfgRate
  cfgClk := s.cfgClk
  rxCfg := s.rxCfg
  txCfg := s.txCfg
  rxIrqEn := s.rxIrqEn
  txIrqEn := s.txIrqEn
  bufsInit := s.bufsInit

/-- From `s` to `t` the parameters stay, and while the block runs the whole configuration does (R58, R260). -/
structure ConfigStep (s t : State) : Prop where
  params : t.params = s.params
  running : s.runState = .running → t.configuration = s.configuration

theorem ConfigStep.of_eq {s t : State} (h : t.configuration = s.configuration) : ConfigStep s t :=
  ⟨congrArg StreamConfiguration.params h, fun _ => h⟩

theorem ConfigStep.of_not_running {s t : State} (hrun : s.runState ≠ .running) (hp : t.params = s.params) :
    ConfigStep s t :=
  ⟨hp, fun h => absurd h hrun⟩

/-- A step whose last part leaves the configuration alone. -/
theorem ConfigStep.trans_eq {s t u : State} (h : ConfigStep s t) (hu : u.configuration = t.configuration) :
    ConfigStep s u :=
  ⟨(congrArg StreamConfiguration.params hu).trans h.params, fun hrun => hu.trans (h.running hrun)⟩

theorem OnlyBus.configuration {s t : State} (h : OnlyBus s t) : t.configuration = s.configuration := by
  obtain ⟨sr, x, tr, rfl⟩ := h
  rfl

/-! How a procedure's answer is recorded does not touch the configuration (R56, R211). -/

theorem settleSetup_configuration (rate : BitVec 24) (r : ProcResult SetupPos) :
    (settleSetup rate r).configuration = r.state.configuration := by
  cases r <;> rfl

theorem settleStart_configuration (r : ProcResult (Bool × Nat)) :
    (settleStart r).configuration = r.state.configuration := by
  cases r <;> rfl

theorem settleTxn_configuration (t : Txn) (r : EngineResult) :
    (settleTxn t r).configuration = r.state.configuration := by
  cases r <;> rfl

theorem settleCorrect_configuration (r : ProcResult CodecRun) :
    (settleCorrect r).configuration = r.state.configuration := by
  cases r <;> rfl

theorem settleRecoverySetup_configuration (rate : BitVec 24) (r : ProcResult SetupPos) :
    (settleRecoverySetup rate r).configuration = r.state.configuration := by
  cases r <;> rfl

theorem recoverySucceed_configuration (s : State) : (recoverySucceed s).configuration = s.configuration := by
  unfold recoverySucceed
  dsimp only
  split <;> rfl

theorem settleRecoveryStart_configuration (r : ProcResult (Bool × Nat)) :
    (settleRecoveryStart r).configuration = r.state.configuration := by
  cases r with
  | going pos t => rfl
  | done t => exact recoverySucceed_configuration t
  | failed e t => rfl

/-! Of the procedures only `do_setup` configures, and it refuses to begin on a running block (R130). -/

theorem startBegin_configuration (s : State) : (startBegin s).state.configuration = s.configuration := by
  rcases startBegin_cases s with ⟨-, e⟩ | ⟨-, e⟩ <;> rw [e] <;> rfl

theorem startStep_configuration (ws0 : Bool) (left : Nat) (s : State) :
    (startStep ws0 left s).state.configuration = s.configuration := by
  rcases startStep_cases ws0 left s with ⟨-, e⟩ | ⟨-, -, e⟩ | ⟨-, -, e⟩ <;> rw [e] <;> rfl

theorem setupBegin_configStep (rate : BitVec 24) (s : State) : ConfigStep s (setupBegin rate s).state := by
  rcases setupBegin_cases rate s with ⟨-, e⟩ | ⟨-, -, e⟩ | ⟨r, -, hrun, e⟩ <;> rw [e]
  · exact .of_eq rfl
  · exact .of_eq rfl
  · exact .of_not_running hrun rfl

theorem setupStep_configStep {rate : BitVec 24} {pos : SetupPos} {s : State} (hrun : s.runState ≠ .running) :
    ConfigStep s (setupStep rate pos s).state :=
  .of_not_running hrun (setupStep_frame rate pos s).params

theorem Inv.fgStep_configStep {s : State} (h : Inv s) : ConfigStep s (fgStep s) := by
  unfold fgStep
  split
  next k hk =>
    cases k with
    | setup rate pos =>
      exact (setupStep_configStep (h.fgAt hk).offline.not_running).trans_eq (settleSetup_configuration rate _)
    | start ws0 left => exact .of_eq ((settleStart_configuration _).trans (startStep_configuration ws0 left s))
    | transaction r =>
      exact .of_eq ((settleTxn_configuration r.txn _).trans (engineStep_onlyBus r s).configuration)
  next => exact .of_eq rfl

/-- The recovery sequence sets the block up again only after its teardown, on a block that is `Configured` (R185,
R186). -/
theorem Inv.recoveryStep_configStep {s : State} (h : Inv s) : ConfigStep s (recoveryStep s) := by
  unfold recoveryStep
  split
  next k hk =>
    cases k with
    | correct c => exact .of_eq ((settleCorrect_configuration _).trans (codecStep_onlyBus c s).configuration)
    | teardown => exact .of_eq rfl
    | setupBegin =>
      exact (setupBegin_configStep s.cfgRate s).trans_eq (settleRecoverySetup_configuration s.cfgRate _)
    | setup rate pos =>
      obtain ⟨hconf, -, -⟩ := (h.recoveryAt hk).fits
      have hrun : s.runState ≠ .running := by simp [hconf]
      exact (setupStep_configStep hrun).trans_eq (settleRecoverySetup_configuration rate _)
    | startBegin => exact .of_eq ((settleRecoveryStart_configuration _).trans (startBegin_configuration s))
    | startWait ws0 left =>
      exact .of_eq ((settleRecoveryStart_configuration _).trans (startStep_configuration ws0 left s))
    | fail e => exact .of_eq rfl
  next => exact .of_eq rfl

/-! Host operations: only SETUP configures. -/

theorem exec_configStep {i : Instr} {s t : State} (h : exec i s = .next t) : ConfigStep s t := by
  cases i with
  | setup rate =>
    cases h
    exact (setupBegin_configStep rate s).trans_eq (settleSetup_configuration rate _)
  | start =>
    cases h
    exact .of_eq ((settleStart_configuration _).trans (startBegin_configuration s))
  | writeRegister | readRegister =>
    cases h
    unfold beginRegisterOp
    split <;> exact .of_eq rfl
  | getProperty sel =>
    cases h
    split <;> exact .of_eq rfl
  | disable | getStatus | clearUnderrun =>
    cases h
    exact .of_eq rfl

theorem accept_configStep {w : Word32} {s t : State} (h : accept w s = .next t) : ConfigStep s t := by
  rcases accept_cases w s with ⟨i, -, e⟩ | ⟨_, -, e⟩ <;> rw [e] at h
  · have hstep : ConfigStep { s with cmd := w } t := exec_configStep h
    exact { hstep with }
  · cases h
    exact .of_eq rfl

/-! The other agents configure nothing. -/

theorem dispEntry_configuration (s : State) : (dispEntry s).configuration = s.configuration := by
  have hcases := dispEntry_cases s
  obtain ⟨fl, te, dme, rh, db, -, -, e⟩ := dispHandoff_cases s
  rw [e] at hcases
  rcases hcases with ⟨-, e⟩ | ⟨-, -, e⟩ | ⟨-, -, e⟩ <;> rw [e] <;> rfl

theorem dispExit_configuration (s : State) : (dispExit s).configuration = s.configuration := by
  unfold dispExit
  dsimp only
  split <;> rfl

theorem txh_configuration (s : State) : (txh s).configuration = s.configuration := by
  obtain ⟨fl, te, dme, -, -, e⟩ := txh_cases s
  rw [e]
  rfl

theorem dmaRxItem_configuration {w : Item} {s t : State} (h : dmaRxItem w s = .next t) :
    t.configuration = s.configuration := by
  rcases dmaRxItem_cases w s with ⟨-, e⟩ | ⟨-, e⟩ <;> rw [e] at h <;> cases h
  rfl

theorem dmaTxItem_configuration {s t : State} (h : dmaTxItem s = .next t) : t.configuration = s.configuration := by
  rcases dmaTxItem_cases s with ⟨w, -, e⟩ | ⟨f, -, e⟩ <;> rw [e] at h <;> cases h
  rfl

theorem cbReadStep_configuration {i : Nat} {s t : State} (h : cbReadStep i s = .next t) :
    t.configuration = s.configuration := by
  rcases cbReadStep_cases i s with ⟨w, -, e⟩ | ⟨f, -, e⟩ <;> rw [e] at h <;> cases h
  rfl

theorem cbWriteStep_configuration {i : Nat} {w : Item} {s t : State} (h : cbWriteStep i w s = .next t) :
    t.configuration = s.configuration := by
  rcases cbWriteStep_cases i w s with ⟨-, e⟩ | ⟨-, e⟩ <;> rw [e] at h <;> cases h
  rfl

theorem cbAck_configuration (b : Byte) (s : State) : (cbAck b s).configuration = s.configuration := by
  unfold cbAck
  split <;> rfl

theorem dmaError_configuration (ch : Channel) (kind : DmaErrorKind) (s : State) :
    (dmaError ch kind s).configuration = s.configuration := by
  cases ch <;> cases kind <;> rfl

theorem Inv.act_configStep {m : Move} {s t : State} (h : Inv s) (ht : act m s = .next t) : ConfigStep s t := by
  cases m with
  | command w => exact accept_configStep ht
  | fg =>
    cases ht
    exact h.fgStep_configStep
  | disp =>
    cases ht
    exact h.recoveryStep_configStep
  | dispEntry =>
    cases ht
    exact .of_eq (dispEntry_configuration s)
  | dispExit =>
    cases ht
    exact .of_eq (dispExit_configuration s)
  | txh =>
    cases ht
    exact .of_eq (txh_configuration s)
  | cbAck b =>
    cases ht
    exact .of_eq (cbAck_configuration b s)
  | dmaError ch kind =>
    cases ht
    exact .of_eq (dmaError_configuration ch kind s)
  | feh | pllLock | wsToggle | frameError =>
    cases ht
    exact .of_eq rfl
  | cbRead i => exact .of_eq (cbReadStep_configuration ht)
  | cbWrite i w => exact .of_eq (cbWriteStep_configuration ht)
  | dmaRx w => exact .of_eq (dmaRxItem_configuration ht)
  | dmaTx => exact .of_eq (dmaTxItem_configuration ht)

/-- Settles O40, move by move: only SETUP and the recovery's `do_setup` configure, and neither on a running block. -/
theorem configurationFixedWhileRunning : Obligations.ConfigurationFixedWhileRunning := by
  intro m s t h ht
  have hstep : ConfigStep s t := by
    rcases take_cases m s with ⟨-, e⟩ | ⟨-, e⟩ <;> rw [e] at ht
    · exact h.act_configStep ht
    · cases ht
      exact .of_eq rfl
  refine ⟨hstep.params, fun hrun => ?_⟩
  obtain ⟨-, hvalid, hrate, hclk, hrx, htx, hrxIrq, htxIrq, hinit⟩ := StreamConfiguration.mk.inj (hstep.running hrun)
  exact ⟨hvalid, hrate, hclk, hrx, htx, hrxIrq, htxIrq, hinit⟩

end Sys2Proof.Machine
